-- ==== Sys2Proof/Word.lean ====
section
/-! DEFINITION. The word types of the YARD-1 (spec 00_scope.md R8, R9, R12): byte, wyde and quad, and the four-bit
register number of an instruction field. Bit 0 is the least significant bit (R9). -/

namespace Sys2Proof

/-- A quad: the 32-bit width of registers, addresses and the program counter (R8 `XLEN`, `ALEN`; R20, R26). -/
abbrev Word := BitVec 32

/-- A wyde: 16 bits, the width of every instruction (R12, R90). -/
abbrev Wyde := BitVec 16

/-- A byte: the unit of memory (R12, R60). -/
abbrev Byte := BitVec 8

/-- A register number, 0 to 15, as a 4-bit instruction field holds it (R20). Number 15 is no storage register (R24). -/
abbrev RegNo := BitVec 4

end Sys2Proof
end

