-- ==== Sys2Proof/Machine/Flags.lean ====
section
/-! DEFINITION. The machine stores no condition codes (spec/10_state.md R31). What stands here are the tests that exist
only as the skip test of an instruction: carry and borrow (41_arithmetic.md R157), the skip conditions
(44_skip_spam.md R226 to R255), and the skip vector of SPAM (R258 to R260). -/

namespace Sys2Proof.Machine

/-! ## Carry and borrow (R157, log 23) -/

/-- Carry out of bit 31 of the unsigned sum: bit 32 of the 33-bit sum (R151). -/
def carryOut (x y : Word) : Bool := (x.setWidth 33 + y.setWidth 33).getLsbD 32

/-- Borrow of `minuend - subtrahend`: the unsigned minuend is less (R153, R155). -/
def borrowOut (minuend subtrahend : Word) : Bool := minuend.ult subtrahend

/-! ## Skip conditions -/

/-- Unsigned `x < y` (R226). -/
def condLo (x y : Word) : Bool := x.ult y

/-- Unsigned `x <= y` (R228). -/
def condLs (x y : Word) : Bool := x.ult y || x == y

/-- Signed `x < y` (R230). -/
def condLt (x y : Word) : Bool := x.slt y

/-- Signed `x <= y` (R232). -/
def condLe (x y : Word) : Bool := x.slt y || x == y

/-- `x = y` (R234). -/
def condEq (x y : Word) : Bool := x == y

/-- `x = 0` (R236). -/
def condZ (x : Word) : Bool := x == 0#32

/-- Any wyde zero (R238, log 24). -/
def condAwz (x : Word) : Bool := x.extractLsb' 16 16 == 0#16 || x.extractLsb' 0 16 == 0#16

/-- Any byte zero (R240, log 24). -/
def condAbz (x : Word) : Bool :=
  x.extractLsb' 24 8 == 0#8 || x.extractLsb' 16 8 == 0#8 || x.extractLsb' 8 8 == 0#8 || x.extractLsb' 0 8 == 0#8

/-- Signed `x <= 0` (R242). -/
def condLez (x : Word) : Bool := x == 0#32 || x.getLsbD 31

/-- Any wyde minus (R244, log 24). -/
def condAwm (x : Word) : Bool := x.getLsbD 31 || x.getLsbD 15

/-- Any byte minus (R246, log 24). -/
def condAbm (x : Word) : Bool := (x &&& 0x80808080#32) != 0#32

/-- Bit `b` of `x` (R250). -/
def condBit (x : Word) (b : BitVec 5) : Bool := x.getLsbD b.toNat

/-! ## The skip vector -/

/-- `sv` of SPAM.AND for the skip test `test` (R258). -/
def spamAndVector (test : Bool) (mask : BitVec 8) : BitVec 8 := if test then mask else 0x00#8

/-- The TRUNC field's mask: the `8 - TRUNC` most significant bits set (R259, R260, log 22). -/
def truncMask (trunc : BitVec 3) : BitVec 8 := 0xFF#8 <<< trunc.toNat

/-- `sv` of SPAM.XORN for the skip test `test` (R259). -/
def spamXornVector (test : Bool) (trunc : BitVec 3) (mask : BitVec 8) : BitVec 8 :=
  ((if test then 0xFF#8 else 0x00#8) ^^^ ~~~mask) &&& truncMask trunc

end Sys2Proof.Machine
end

