-- ==== Sys2Proof/Syntax.lean ====
section
/-! DEFINITION. The instructions: one constructor of `Instr` for each of the 111 rows of spec/opcode_table.json, in the
table's order (log 33). The rows classify every 16-bit word, the first matching row winning (INDEX.md); a row that is
only a named special case of a later row (`nop` of `mov`, `skip.a` of `skip.eq`) is a constructor of its own, and
WellFormed.lean says that the later row does not stand for the special case's words. -/

namespace Sys2Proof

/-- Operand B of formats L and A, by OPB_CTL (30_encoding.md R104). -/
inductive Opb where
  /-- OPB_CTL = 00: a register. -/
  | reg (rb : RegNo)
  /-- OPB_CTL = 01: a 5-bit signed immediate. -/
  | simm (v : BitVec 5)
  /-- OPB_CTL = 10: the immediate 2^N. -/
  | pow2 (n : BitVec 5)
  /-- OPB_CTL = 11: the immediate 2^N - 1. -/
  | mask (n : BitVec 5)
  deriving DecidableEq, Repr

/-- The MODE bit of LD, ST and LEA in the normal addressing modes (R96, R180). -/
inductive AddrMode where
  /-- MODE = 0: register indirect, `(rb)`. -/
  | plain
  /-- MODE = 1: register offset indirect, `.imm(rb)`. -/
  | imm
  deriving DecidableEq, Repr

/-- The MODE bit of the stack offset addressing mode (R184; 90_conflicts.md C11). -/
inductive StackBase where
  /-- MODE = 0. -/
  | fp
  /-- MODE = 1. -/
  | sp
  deriving DecidableEq, Repr

/-- The two addressing forms of a quad LD or ST, as the return-stack rows take either (R191, R197). -/
inductive QuadAddr where
  /-- SIZE = 01: a normal mode. -/
  | normal (mode : AddrMode) (rb : RegNo)
  /-- SIZE = 00: stack offset, the offset counted in quads. -/
  | stack (base : StackBase) (off : BitVec 4)
  deriving DecidableEq, Repr

/-- The SIZE field of LEA: 01, 10 and 11 all mean the same (42_memory_group.md R200). -/
inductive LeaSize where
  | s01
  | s10
  | s11
  deriving DecidableEq, Repr

/-- One constructor per row of spec/opcode_table.json. Operands stand in assembly order, `ra` first (R111). -/
inductive Instr where
  /-- `nop`, word 0000000000000000 (R142). -/
  | nop
  /-- `clr ra`, `mov ra,#0` (R140). -/
  | clr (ra : RegNo)
  /-- `not ra`, `xor ra,#-1` (R141). -/
  | not (ra : RegNo)
  /-- `inc ra`, `add ra,#1` (R158). -/
  | inc (ra : RegNo)
  /-- `dec ra`, `sub ra,#1` (R159). -/
  | dec (ra : RegNo)
  /-- `neg ra`, `rsub ra,#0` (R160). -/
  | neg (ra : RegNo)
  /-- `rol ra`, the one-operand form, `rol ra,#1` (R113, R168). -/
  | rolOne (ra : RegNo)
  /-- `lsr ra,#n` (R164). -/
  | lsr (ra : RegNo) (n : BitVec 5)
  /-- `lsl ra,#n` (R165). -/
  | lsl (ra : RegNo) (n : BitVec 5)
  /-- `asr ra,#n` (R166). -/
  | asr (ra : RegNo) (n : BitVec 5)
  /-- `flip ra,#n` (R169). -/
  | flip (ra : RegNo) (n : BitVec 5)
  /-- `ror ra,#n` (R167). -/
  | ror (ra : RegNo) (n : BitVec 5)
  /-- `rol ra,#n` (R168). -/
  | rol (ra : RegNo) (n : BitVec 5)
  /-- `ext.uw ra,rb` (R170). -/
  | extUw (ra rb : RegNo)
  /-- `ext.sw ra,rb` (R171). -/
  | extSw (ra rb : RegNo)
  /-- `ext.ub ra,rb` (R172). -/
  | extUb (ra rb : RegNo)
  /-- `ext.sb ra,rb` (R173). -/
  | extSb (ra rb : RegNo)
  /-- No defined meaning: OPB_CTL = 00 with bit 8 = 1; `op` is bits 14:12, `b11` is NOTB or CSKIP (R110). -/
  | undefRegOpb (op : BitVec 3) (b11 : BitVec 1) (ra rb : RegNo)
  /-- `mov ra,opb` (R132). -/
  | mov (ra : RegNo) (b : Opb)
  /-- `mov.not ra,opb` (R133). -/
  | movNot (ra : RegNo) (b : Opb)
  /-- `and ra,opb` (R134). -/
  | and (ra : RegNo) (b : Opb)
  /-- `and.not ra,opb` (R135). -/
  | andNot (ra : RegNo) (b : Opb)
  /-- `or ra,opb` (R136). -/
  | or (ra : RegNo) (b : Opb)
  /-- `or.not ra,opb` (R137). -/
  | orNot (ra : RegNo) (b : Opb)
  /-- `xor ra,opb` (R138). -/
  | xor (ra : RegNo) (b : Opb)
  /-- `xor.not ra,opb` (R139). -/
  | xorNot (ra : RegNo) (b : Opb)
  /-- `add ra,opb` (R150). -/
  | add (ra : RegNo) (b : Opb)
  /-- `add.snc ra,opb` (R151). -/
  | addSnc (ra : RegNo) (b : Opb)
  /-- `sub ra,opb` (R152). -/
  | sub (ra : RegNo) (b : Opb)
  /-- `sub.snb ra,opb` (R153). -/
  | subSnb (ra : RegNo) (b : Opb)
  /-- `rsub ra,opb` (R154). -/
  | rsub (ra : RegNo) (b : Opb)
  /-- `rsub.snb ra,opb` (R155). -/
  | rsubSnb (ra : RegNo) (b : Opb)
  /-- `ld.q rs,...`: push onto the return stack, either addressing form (R191). -/
  | ldqRs (a : QuadAddr)
  /-- `ld.q ra,off(fp|sp)` (R186). -/
  | ldqStack (ra : RegNo) (base : StackBase) (off : BitVec 4)
  /-- No mnemonic: LD quad with SIGN = 1; `m` is MODE, `s` the low bit of SIZE (R192). -/
  | undefLdQuadSign (m s : BitVec 1) (ra rb : RegNo)
  /-- `ld.q ra,(rb)` or `ld.q ra,.imm(rb)` (R185). -/
  | ldq (ra : RegNo) (mode : AddrMode) (rb : RegNo)
  /-- `ld.uw` (R187). -/
  | lduw (ra : RegNo) (mode : AddrMode) (rb : RegNo)
  /-- `ld.sw`, also `ld.w` (R188). -/
  | ldsw (ra : RegNo) (mode : AddrMode) (rb : RegNo)
  /-- `ld.ub` (R189). -/
  | ldub (ra : RegNo) (mode : AddrMode) (rb : RegNo)
  /-- `ld.sb`, also `ld.b` (R190). -/
  | ldsb (ra : RegNo) (mode : AddrMode) (rb : RegNo)
  /-- `st.q rs,...`: pop the return stack to memory, either addressing form (R197). -/
  | stqRs (a : QuadAddr)
  /-- `st.q ra,off(fp|sp)` (R194). -/
  | stqStack (ra : RegNo) (base : StackBase) (off : BitVec 4)
  /-- `st.q ra,(rb)` or `st.q ra,.imm(rb)` (R193). -/
  | stq (ra : RegNo) (mode : AddrMode) (rb : RegNo)
  /-- `st.w` (R195). -/
  | stw (ra : RegNo) (mode : AddrMode) (rb : RegNo)
  /-- `st.b` (R196). -/
  | stb (ra : RegNo) (mode : AddrMode) (rb : RegNo)
  /-- No defined meaning: LEA with SIZE = 00; `m` is MODE (R201). -/
  | undefLeaSize (m : BitVec 1) (ra : RegNo) (off : BitVec 4)
  /-- `lea ra,(rb)` or `lea ra,.imm(rb)` (R199, R200). -/
  | lea (ra : RegNo) (mode : AddrMode) (size : LeaSize) (rb : RegNo)
  /-- `ldi label`: EA12 counts quads (R202). -/
  | ldi (ea12 : BitVec 12)
  /-- `imm12 #constant` (R203). -/
  | imm12 (i12 : BitVec 12)
  /-- `di`, word 0xC704 (R213). -/
  | di
  /-- `ei`, word 0xCF04 (R214). -/
  | ei
  /-- No defined meaning: any other word of major opcode 1100 (R215). -/
  | undefCoproc (x : BitVec 12)
  /-- `skip.a`, `skip.eq r0,r0` (R254). -/
  | skipA
  /-- `skip.n`, `skip.ne r0,r0` (R255). -/
  | skipN
  /-- `skip.lo ra,rb` (R226). -/
  | skipLo (ra rb : RegNo)
  /-- `skip.hs ra,rb` (R227). -/
  | skipHs (ra rb : RegNo)
  /-- `skip.ls ra,rb` (R228). -/
  | skipLs (ra rb : RegNo)
  /-- `skip.hi ra,rb` (R229). -/
  | skipHi (ra rb : RegNo)
  /-- `skip.lt ra,rb` (R230). -/
  | skipLt (ra rb : RegNo)
  /-- `skip.ge ra,rb` (R231). -/
  | skipGe (ra rb : RegNo)
  /-- `skip.le ra,rb` (R232). -/
  | skipLe (ra rb : RegNo)
  /-- `skip.gt ra,rb` (R233). -/
  | skipGt (ra rb : RegNo)
  /-- `skip.eq ra,rb` (R234). -/
  | skipEq (ra rb : RegNo)
  /-- `skip.ne ra,rb` (R235). -/
  | skipNe (ra rb : RegNo)
  /-- `skip.z ra` (R236). -/
  | skipZ (ra : RegNo)
  /-- `skip.nz ra` (R237). -/
  | skipNz (ra : RegNo)
  /-- `skip.awz ra` (R238). -/
  | skipAwz (ra : RegNo)
  /-- `skip.nwz ra` (R239). -/
  | skipNwz (ra : RegNo)
  /-- `skip.abz ra` (R240). -/
  | skipAbz (ra : RegNo)
  /-- `skip.nbz ra` (R241). -/
  | skipNbz (ra : RegNo)
  /-- `skip.lez ra` (R242). -/
  | skipLez (ra : RegNo)
  /-- `skip.gtz ra` (R243). -/
  | skipGtz (ra : RegNo)
  /-- `skip.awm ra` (R244). -/
  | skipAwm (ra : RegNo)
  /-- `skip.nwm ra` (R245). -/
  | skipNwm (ra : RegNo)
  /-- `skip.abm ra` (R246). -/
  | skipAbm (ra : RegNo)
  /-- `skip.nbm ra` (R247). -/
  | skipNbm (ra : RegNo)
  /-- No defined meaning: the reserved SCC rows; `sense` is bit 11 (R110). -/
  | undefScc (sense : BitVec 1) (ra : RegNo)
  /-- `skip.fs #n` (R248). -/
  | skipFs (n : BitVec 4)
  /-- `skip.fc #n` (R249). -/
  | skipFc (n : BitVec 4)
  /-- `skip.cpt`: coprocessor `n` true, undefined (R216). -/
  | skipCpt (ccc : BitVec 3) (n : BitVec 4)
  /-- `skip.cpf`: coprocessor `n` false, undefined (R216). -/
  | skipCpf (ccc : BitVec 3) (n : BitVec 4)
  /-- `skip.mi ra`, `skip.bs ra,#31` (R253). -/
  | skipMi (ra : RegNo)
  /-- `skip.pl ra`, `skip.bc ra,#31` (R252). -/
  | skipPl (ra : RegNo)
  /-- `skip.bs ra,#b` (R250). -/
  | skipBs (ra : RegNo) (b : BitVec 5)
  /-- `skip.bc ra,#b` (R251). -/
  | skipBc (ra : RegNo) (b : BitVec 5)
  /-- `bra.d label` (R277). -/
  | braD (i9 : BitVec 9)
  /-- `bra label` (R276). -/
  | bra (i9 : BitVec 9)
  /-- `bsr.d label` (R279). -/
  | bsrD (i9 : BitVec 9)
  /-- `bsr label` (R278). -/
  | bsr (i9 : BitVec 9)
  /-- `lbra.d label` (R281). -/
  | lbraD (i9 : BitVec 9)
  /-- `lbra label` (R280). -/
  | lbra (i9 : BitVec 9)
  /-- `lbsr.d label` (R283). -/
  | lbsrD (i9 : BitVec 9)
  /-- `lbsr label` (R282). -/
  | lbsr (i9 : BitVec 9)
  /-- `spam.and #mask`, TRUNC = 7 (R258). -/
  | spamAnd (mask : BitVec 8)
  /-- `spam.xorn #mask,#length`, TRUNC = 0 to 6 (R259, R260). -/
  | spamXorn (trunc : BitVec 3) (mask : BitVec 8)
  /-- `jmp.d (ra)` (R286). -/
  | jmpD (ra : RegNo)
  /-- `jmp (ra)` (R285). -/
  | jmp (ra : RegNo)
  /-- `jsr.d (ra)` (R288). -/
  | jsrD (ra : RegNo)
  /-- `jsr (ra)` (R287). -/
  | jsr (ra : RegNo)
  /-- `rbra.d ra` (R290). -/
  | rbraD (ra : RegNo)
  /-- `rbra ra` (R289). -/
  | rbra (ra : RegNo)
  /-- `rbsr.d ra` (R292). -/
  | rbsrD (ra : RegNo)
  /-- `rbsr ra` (R291). -/
  | rbsr (ra : RegNo)
  /-- `rts.d` (R294). -/
  | rtsD
  /-- `rts` (R293). -/
  | rts
  /-- RTI with DNULL = 0 (R295, R316). -/
  | rtiD
  /-- `rti` (R295, R316). -/
  | rti
  /-- TRAP with DNULL = 0 (R296, R312). -/
  | trapD (tr : BitVec 8)
  /-- TRAP with DNULL = 1 (R296, R312). -/
  | trap (tr : BitVec 8)
  /-- No defined meaning: words 111110x1xxxxxxxx; `b9` is bit 9 (R110). -/
  | undefBit10 (b9 : BitVec 1) (x : BitVec 8)
  /-- No defined meaning: format J sub-code 0010 with RA not 0000, or 0011 to 1111; `b` is bits 10:9 (R110). -/
  | undefJ (b : BitVec 2) (sub ra : BitVec 4)
  deriving DecidableEq, Repr

end Sys2Proof
end

