-- ==== Sys2Proof/WellFormed.lean ====
section
/-! DEFINITION. Which terms of `Instr` stand for a word of their own row of spec/opcode_table.json. A row matches a word
only where no row before it does (INDEX.md, "the first matching row wins"), so a general row does not stand for the
words of the special cases named before it (log 33), and a row of undefined words stands only for what the defined rows
leave over. -/

namespace Sys2Proof

/-- The term is what the decoder reads from some word: its operands are none of those that an earlier row of the table
claims. -/
def Instr.wellFormed : Instr → Bool
  | .nop => true
  | .clr _ => true
  | .not _ => true
  | .inc _ => true
  | .dec _ => true
  | .neg _ => true
  | .rolOne _ => true
  | .lsr _ _ => true
  | .lsl _ _ => true
  | .asr _ _ => true
  | .flip _ _ => true
  | .ror _ _ => true
  -- `rol ra,#1` is the row of the one-operand form (R113)
  | .rol _ n => n != 1#5
  | .extUw _ _ => true
  | .extSw _ _ => true
  | .extUb _ _ => true
  | .extSb _ _ => true
  -- major opcodes 0000 to 0110 only: 0111 is formats S and X (R110)
  | .undefRegOpb op _ _ _ => op != 7#3
  -- `nop` and `clr` (R113)
  | .mov ra b => !(b == .reg 0#4 && ra == 0#4) && b != .simm 0#5
  | .movNot _ _ => true
  | .and _ _ => true
  | .andNot _ _ => true
  | .or _ _ => true
  | .orNot _ _ => true
  -- `not` (R113)
  | .xor _ b => b != .simm 31#5
  | .xorNot _ _ => true
  -- `inc`, `dec`, `neg` (R113)
  | .add _ b => b != .simm 1#5
  | .addSnc _ _ => true
  | .sub _ b => b != .simm 1#5
  | .subSnb _ _ => true
  | .rsub _ b => b != .simm 0#5
  | .rsubSnb _ _ => true
  | .ldqRs _ => true
  -- RA = 1111 is the return-stack row (R191, R197)
  | .ldqStack ra _ _ => ra != 15#4
  | .undefLdQuadSign _ _ _ _ => true
  | .ldq ra _ _ => ra != 15#4
  | .lduw _ _ _ => true
  | .ldsw _ _ _ => true
  | .ldub _ _ _ => true
  | .ldsb _ _ _ => true
  | .stqRs _ => true
  | .stqStack ra _ _ => ra != 15#4
  | .stq ra _ _ => ra != 15#4
  | .stw _ _ _ => true
  | .stb _ _ _ => true
  | .undefLeaSize _ _ _ => true
  | .lea _ _ _ _ => true
  | .ldi _ => true
  | .imm12 _ => true
  | .di => true
  | .ei => true
  -- `di` and `ei` (R98)
  | .undefCoproc x => x != 0x704#12 && x != 0xF04#12
  | .skipA => true
  | .skipN => true
  | .skipLo _ _ => true
  | .skipHs _ _ => true
  | .skipLs _ _ => true
  | .skipHi _ _ => true
  | .skipLt _ _ => true
  | .skipGe _ _ => true
  | .skipLe _ _ => true
  | .skipGt _ _ => true
  -- `skip.a` and `skip.n` (R113)
  | .skipEq ra rb => !(ra == 0#4 && rb == 0#4)
  | .skipNe ra rb => !(ra == 0#4 && rb == 0#4)
  | .skipZ _ => true
  | .skipNz _ => true
  | .skipAwz _ => true
  | .skipNwz _ => true
  | .skipAbz _ => true
  | .skipNbz _ => true
  | .skipLez _ => true
  | .skipGtz _ => true
  | .skipAwm _ => true
  | .skipNwm _ => true
  | .skipAbm _ => true
  | .skipNbm _ => true
  | .undefScc _ _ => true
  | .skipFs _ => true
  | .skipFc _ => true
  | .skipCpt _ _ => true
  | .skipCpf _ _ => true
  | .skipMi _ => true
  | .skipPl _ => true
  -- `skip.mi` and `skip.pl` (R113)
  | .skipBs _ b => b != 31#5
  | .skipBc _ b => b != 31#5
  | .braD _ => true
  | .bra _ => true
  | .bsrD _ => true
  | .bsr _ => true
  | .lbraD _ => true
  | .lbra _ => true
  | .lbsrD _ => true
  | .lbsr _ => true
  | .spamAnd _ => true
  -- TRUNC = 7 is `spam.and` (R101)
  | .spamXorn trunc _ => trunc != 7#3
  | .jmpD _ => true
  | .jmp _ => true
  | .jsrD _ => true
  | .jsr _ => true
  | .rbraD _ => true
  | .rbra _ => true
  | .rbsrD _ => true
  | .rbsr _ => true
  | .rtsD => true
  | .rts => true
  | .rtiD => true
  | .rti => true
  | .trapD _ => true
  | .trap _ => true
  | .undefBit10 _ _ => true
  -- sub-codes 0000 and 0001 are jumps, 0010 with RA = 0000 the returns (R102)
  | .undefJ _ code ra => code != 0#4 && code != 1#4 && !(code == 2#4 && ra == 0#4)

end Sys2Proof
end

