-- ==== Sys2Proof/Decode.lean ====
section
/-! DEFINITION. The decoder and the encoder, written from the formats of spec/30_encoding.md (R91 to R103), the list of
defined words (R109) and the list of undefined ones (R110). Every 16-bit word is a row of the table, so `decodeWord` is
total; bytes are rejected, by name, only where there is no whole instruction (R90, R65). -/

namespace Sys2Proof

/-! ## Fields of an instruction word (R92 to R103) -/

/-- Bits 15:12, the major opcode (R91). -/
def fieldMajor (w : Wyde) : BitVec 4 := w.extractLsb' 12 4

/-- Bits 3:0: RA, or N of the flag and coprocessor skips. -/
def fieldRa (w : Wyde) : BitVec 4 := w.extractLsb' 0 4

/-- Bits 7:4: RB, OFF4, or the sub-code of formats K and J. -/
def fieldRb (w : Wyde) : BitVec 4 := w.extractLsb' 4 4

/-- Bits 8:4: OPB, the shift count N, or the bit number B. -/
def fieldFive (w : Wyde) : BitVec 5 := w.extractLsb' 4 5

/-- Bits 7:0: MASK or TR. -/
def fieldLow8 (w : Wyde) : BitVec 8 := w.extractLsb' 0 8

/-- Bits 8:0: I9. -/
def fieldI9 (w : Wyde) : BitVec 9 := w.extractLsb' 0 9

/-- Bits 11:0: EA12, I12, or the undivided rest of a coprocessor word. -/
def fieldLow12 (w : Wyde) : BitVec 12 := w.extractLsb' 0 12

/-- One bit of the word, as a field of width 1. -/
def fieldBit (k : Nat) (w : Wyde) : BitVec 1 := w.extractLsb' k 1

/-! ## The decoder -/

/-- OPB_CTL and OPB of formats L and A (R104); none for the register form with bit 8 = 1, which has no meaning (R110). -/
def decodeOpb (w : Wyde) : Option Opb :=
  let ctl := w.extractLsb' 9 2
  if ctl = 0#2 then
    if fieldBit 8 w = 0#1 then some (.reg (fieldRb w)) else none
  else if ctl = 1#2 then some (.simm (fieldFive w))
  else if ctl = 2#2 then some (.pow2 (fieldFive w))
  else some (.mask (fieldFive w))

/-- Formats L and A by their five high bits, 00000 to 01101 (R92, R93), the special cases of R113 first. -/
def decodeAluOp (w : Wyde) (ra : RegNo) (b : Opb) : Instr :=
  let op := w.extractLsb' 11 5
  if op = 0#5 then
    if b = .reg 0#4 ∧ ra = 0#4 then .nop
    else if b = .simm 0#5 then .clr ra
    else .mov ra b
  else if op = 1#5 then .movNot ra b
  else if op = 2#5 then .and ra b
  else if op = 3#5 then .andNot ra b
  else if op = 4#5 then .or ra b
  else if op = 5#5 then .orNot ra b
  else if op = 6#5 then
    if b = .simm 31#5 then .not ra else .xor ra b
  else if op = 7#5 then .xorNot ra b
  else if op = 8#5 then
    if b = .simm 1#5 then .inc ra else .add ra b
  else if op = 9#5 then .addSnc ra b
  else if op = 10#5 then
    if b = .simm 1#5 then .dec ra else .sub ra b
  else if op = 11#5 then .subSnb ra b
  else if op = 12#5 then
    if b = .simm 0#5 then .neg ra else .rsub ra b
  else .rsubSnb ra b

/-- Major opcodes 0000 to 0110: formats L and A (R92, R93). -/
def decodeAlu (w : Wyde) : Instr :=
  match decodeOpb w with
  | some b => decodeAluOp w (fieldRa w) b
  | none => .undefRegOpb (w.extractLsb' 12 3) (fieldBit 11 w) (fieldRa w) (fieldRb w)

/-- Major opcode 0111: formats S and X, by bits 11:9 (R94, R95). -/
def decodeShift (w : Wyde) : Instr :=
  let op := w.extractLsb' 9 3
  let ra := fieldRa w
  let n := fieldFive w
  if op = 0#3 then .lsr ra n
  else if op = 1#3 then .lsl ra n
  else if op = 2#3 then .asr ra n
  else if op = 3#3 then .flip ra n
  else if op = 4#3 then .ror ra n
  else if op = 5#3 then
    if n = 1#5 then .rolOne ra else .rol ra n
  else
    let ty := w.extractLsb' 8 2
    if ty = 0#2 then .extUw ra (fieldRb w)
    else if ty = 1#2 then .extSw ra (fieldRb w)
    else if ty = 2#2 then .extUb ra (fieldRb w)
    else .extSb ra (fieldRb w)

/-- MODE, bit 11, of a normal addressing mode (R96). -/
def decodeMode (w : Wyde) : AddrMode :=
  if fieldBit 11 w = 0#1 then .plain else .imm

/-- MODE, bit 11, of the stack offset addressing mode (R96, R184). -/
def decodeBase (w : Wyde) : StackBase :=
  if fieldBit 11 w = 0#1 then .fp else .sp

/-- Major opcode 1000: LD, by SIZE (bits 10:9) and SIGN (bit 8) (R96). -/
def decodeLoad (w : Wyde) : Instr :=
  let size := w.extractLsb' 9 2
  let sign := fieldBit 8 w
  let ra := fieldRa w
  let rb := fieldRb w
  if size = 0#2 then
    if sign = 0#1 then
      if ra = 15#4 then .ldqRs (.stack (decodeBase w) rb) else .ldqStack ra (decodeBase w) rb
    else .undefLdQuadSign (fieldBit 11 w) 0#1 ra rb
  else if size = 1#2 then
    if sign = 0#1 then
      if ra = 15#4 then .ldqRs (.normal (decodeMode w) rb) else .ldq ra (decodeMode w) rb
    else .undefLdQuadSign (fieldBit 11 w) 1#1 ra rb
  else if size = 2#2 then
    if sign = 0#1 then .lduw ra (decodeMode w) rb else .ldsw ra (decodeMode w) rb
  else
    if sign = 0#1 then .ldub ra (decodeMode w) rb else .ldsb ra (decodeMode w) rb

/-- Major opcode 1001: ST where bit 8 = 0, LEA where bit 8 = 1 (R96). -/
def decodeStore (w : Wyde) : Instr :=
  let size := w.extractLsb' 9 2
  let ra := fieldRa w
  let rb := fieldRb w
  if fieldBit 8 w = 0#1 then
    if size = 0#2 then
      if ra = 15#4 then .stqRs (.stack (decodeBase w) rb) else .stqStack ra (decodeBase w) rb
    else if size = 1#2 then
      if ra = 15#4 then .stqRs (.normal (decodeMode w) rb) else .stq ra (decodeMode w) rb
    else if size = 2#2 then .stw ra (decodeMode w) rb
    else .stb ra (decodeMode w) rb
  else
    if size = 0#2 then .undefLeaSize (fieldBit 11 w) ra rb
    else if size = 1#2 then .lea ra (decodeMode w) .s01 rb
    else if size = 2#2 then .lea ra (decodeMode w) .s10 rb
    else .lea ra (decodeMode w) .s11 rb

/-- Major opcode 1100: two whole words are defined (R98). -/
def decodeCoproc (w : Wyde) : Instr :=
  if fieldLow12 w = 0x704#12 then .di
  else if fieldLow12 w = 0xF04#12 then .ei
  else .undefCoproc (fieldLow12 w)

/-- Layout K-rr: register-register skips, bits 10:8 = 000 to 100; `sense` is bit 11 (R99, R225). -/
def decodeSkipPair (cond : BitVec 3) (sense : BitVec 1) (ra rb : RegNo) : Instr :=
  if cond = 0#3 then if sense = 0#1 then .skipLo ra rb else .skipHs ra rb
  else if cond = 1#3 then if sense = 0#1 then .skipLs ra rb else .skipHi ra rb
  else if cond = 2#3 then if sense = 0#1 then .skipLt ra rb else .skipGe ra rb
  else if cond = 3#3 then if sense = 0#1 then .skipLe ra rb else .skipGt ra rb
  else if ra = 0#4 ∧ rb = 0#4 then if sense = 0#1 then .skipA else .skipN
  else if sense = 0#1 then .skipEq ra rb else .skipNe ra rb

/-- Layout K-u: unary, flag and coprocessor skips, by the sub-code in bits 7:4 (R99, R225). -/
def decodeSkipUnary (sub : BitVec 4) (sense : BitVec 1) (ra : RegNo) : Instr :=
  if sub = 0#4 then if sense = 0#1 then .skipZ ra else .skipNz ra
  else if sub = 1#4 then if sense = 0#1 then .skipAwz ra else .skipNwz ra
  else if sub = 2#4 then if sense = 0#1 then .skipAbz ra else .skipNbz ra
  else if sub = 3#4 then .undefScc sense ra
  else if sub = 4#4 then if sense = 0#1 then .skipLez ra else .skipGtz ra
  else if sub = 5#4 then if sense = 0#1 then .skipAwm ra else .skipNwm ra
  else if sub = 6#4 then if sense = 0#1 then .skipAbm ra else .skipNbm ra
  else if sub = 7#4 then if sense = 0#1 then .skipFs ra else .skipFc ra
  else if sense = 0#1 then .skipCpt (sub.extractLsb' 0 3) ra else .skipCpf (sub.extractLsb' 0 3) ra

/-- Layout K-b: bit tests, the bit number in bits 8:4 (R99, R225); bit 31 is `skip.mi` and `skip.pl` (R113). -/
def decodeSkipBit (b : BitVec 5) (sense : BitVec 1) (ra : RegNo) : Instr :=
  if b = 31#5 then if sense = 0#1 then .skipMi ra else .skipPl ra
  else if sense = 0#1 then .skipBs ra b else .skipBc ra b

/-- Major opcode 1101: SKIP, the three layouts told apart by bits 10:8 (R99). -/
def decodeSkip (w : Wyde) : Instr :=
  let cond := w.extractLsb' 8 3
  let sense := fieldBit 11 w
  if w.extractLsb' 9 2 = 3#2 then decodeSkipBit (fieldFive w) sense (fieldRa w)
  else if cond = 5#3 then decodeSkipUnary (fieldRb w) sense (fieldRa w)
  else decodeSkipPair cond sense (fieldRa w) (fieldRb w)

/-- Major opcode 1110: the eight combinations of LBRA, PSHPC and DNULL, bits 11:9 (R100). -/
def decodeBranch (w : Wyde) : Instr :=
  let op := w.extractLsb' 9 3
  let i9 := fieldI9 w
  if op = 0#3 then .braD i9
  else if op = 1#3 then .bra i9
  else if op = 2#3 then .bsrD i9
  else if op = 3#3 then .bsr i9
  else if op = 4#3 then .lbraD i9
  else if op = 5#3 then .lbra i9
  else if op = 6#3 then .lbsrD i9
  else .lbsr i9

/-- Format J, by the sub-code in bits 7:4 and by bits 10:9 (PSHPC or the RTI select, and DNULL) (R102). -/
def decodeJump (b : BitVec 2) (sub ra : BitVec 4) : Instr :=
  if sub = 0#4 then
    if b = 0#2 then .jmpD ra else if b = 1#2 then .jmp ra else if b = 2#2 then .jsrD ra else .jsr ra
  else if sub = 1#4 then
    if b = 0#2 then .rbraD ra else if b = 1#2 then .rbra ra else if b = 2#2 then .rbsrD ra else .rbsr ra
  else if sub = 2#4 ∧ ra = 0#4 then
    if b = 0#2 then .rtsD else if b = 1#2 then .rts else if b = 2#2 then .rtiD else .rti
  else .undefJ b sub ra

/-- Major opcode 1111: SPAM where bit 11 = 0 (R101), else TRAP (R103), format J (R102) and the undefined words (R110). -/
def decodeControl (w : Wyde) : Instr :=
  if fieldBit 11 w = 0#1 then
    let trunc := w.extractLsb' 8 3
    if trunc = 7#3 then .spamAnd (fieldLow8 w) else .spamXorn trunc (fieldLow8 w)
  else if fieldBit 8 w = 1#1 then
    if fieldBit 10 w = 0#1 then .undefBit10 (fieldBit 9 w) (fieldLow8 w)
    else if fieldBit 9 w = 0#1 then .trapD (fieldLow8 w)
    else .trap (fieldLow8 w)
  else decodeJump (w.extractLsb' 9 2) (fieldRb w) (fieldRa w)

/-- The instruction of a 16-bit word, by its major opcode (R91). Total: every word is a row of the table. -/
def decodeWord (w : Wyde) : Instr :=
  let op := fieldMajor w
  if op = 7#4 then decodeShift w
  else if op = 8#4 then decodeLoad w
  else if op = 9#4 then decodeStore w
  else if op = 10#4 then .ldi (fieldLow12 w)
  else if op = 11#4 then .imm12 (fieldLow12 w)
  else if op = 12#4 then decodeCoproc w
  else if op = 13#4 then decodeSkip w
  else if op = 14#4 then decodeBranch w
  else if op = 15#4 then decodeControl w
  else decodeAlu w

/-- Why bytes hold no instruction. -/
inductive DecodeError where
  /-- Fewer than two bytes: every instruction is exactly 16 bits (R90). -/
  | truncated
  deriving DecidableEq, Repr

/-- The wyde of two bytes, the first at the lower address and in the high half (R65: the byte at `pc` holds instruction
bits 15:8). -/
def wydeOfBytes (hi lo : Byte) : Wyde := hi ++ lo

/-- The bytes of a wyde in memory order (R65). -/
def bytesOfWyde (w : Wyde) : List Byte := [w.extractLsb' 8 8, w.extractLsb' 0 8]

/-- Decode the instruction that bytes in memory order begin with, and give the bytes after it. -/
def decodeBytes : List Byte → Except DecodeError (Instr × List Byte)
  | hi :: lo :: rest => .ok (decodeWord (wydeOfBytes hi lo), rest)
  | _ => .error .truncated

/-- The host's question: the instruction decoded from the word `w` of `nbits` bits, numbered as spec/opcode_table.json
numbers them (bit 0 the least significant); the bits above `nbits` are 0. -/
def decodeTableWord (nbits w : Nat) : Option Instr :=
  match decodeBytes (bytesOfWyde (BitVec.ofNat 16 (w % 2 ^ nbits))) with
  | .ok (i, _) => some i
  | .error _ => none

/-! ## SPAM by its bits -/

/-- Bits 15:11 = 11110: the slot algorithm asks this of the word (44_skip_spam.md R220). -/
def isSpamWord (w : Wyde) : Bool := w.extractLsb' 11 5 == 0b11110#5

/-! ## The encoder -/

/-- OPB_CTL and OPB, bits 10:4 (R104); the register form has bit 8 = 0. -/
def encodeOpb : Opb → BitVec 7
  | .reg rb => 0b000#3 ++ rb
  | .simm v => 0b01#2 ++ v
  | .pow2 n => 0b10#2 ++ n
  | .mask n => 0b11#2 ++ n

/-- MODE (R96). -/
def encodeMode : AddrMode → BitVec 1
  | .plain => 0#1
  | .imm => 1#1

/-- MODE as the base select of stack offset mode (R96, R184). -/
def encodeBase : StackBase → BitVec 1
  | .fp => 0#1
  | .sp => 1#1

/-- SIZE of LEA (R96, R200). -/
def encodeLeaSize : LeaSize → BitVec 2
  | .s01 => 1#2
  | .s10 => 2#2
  | .s11 => 3#2

/-- Formats L and A: five opcode bits, operand B, RA (R92, R93). -/
def packAlu (op : BitVec 5) (b : Opb) (ra : RegNo) : Wyde := op ++ (encodeOpb b ++ ra)

/-- Format S, layout K-b: seven opcode bits, a 5-bit field, RA (R94, R99). -/
def packFive (op : BitVec 7) (n : BitVec 5) (ra : RegNo) : Wyde := op ++ (n ++ ra)

/-- Formats X, K-rr, J: eight opcode bits and two 4-bit fields (R95, R99, R102). -/
def packPair (op : BitVec 8) (rb ra : BitVec 4) : Wyde := op ++ (rb ++ ra)

/-- Format M: major opcode, MODE, SIZE and bit 8, bits 7:4, RA (R96). -/
def packMem (op : BitVec 4) (m : BitVec 1) (sizeSign : BitVec 3) (rb ra : BitVec 4) : Wyde :=
  op ++ (m ++ (sizeSign ++ (rb ++ ra)))

/-- Format M for the quad rows, either addressing form, bit 8 = 0 (R96). -/
def packQuad (op : BitVec 4) (a : QuadAddr) (ra : RegNo) : Wyde :=
  match a with
  | .normal m rb => packMem op (encodeMode m) 0b010#3 rb ra
  | .stack b off => packMem op (encodeBase b) 0b000#3 off ra

/-- Format B: seven bits and I9 (R100). -/
def packBranch (op : BitVec 7) (i9 : BitVec 9) : Wyde := op ++ i9

/-- Formats P and T: eight bits and an 8-bit field (R101, R103). -/
def packEight (op x : BitVec 8) : Wyde := op ++ x

/-- Formats W and C: four bits and a 12-bit field (R97, R98). -/
def packTwelve (op : BitVec 4) (x : BitVec 12) : Wyde := op ++ x

/-- The word of an instruction (R109, R110, R113). -/
def encode : Instr → Wyde
  | .nop => 0x0000#16
  | .clr ra => packAlu 0b00000#5 (.simm 0#5) ra
  | .not ra => packAlu 0b00110#5 (.simm 31#5) ra
  | .inc ra => packAlu 0b01000#5 (.simm 1#5) ra
  | .dec ra => packAlu 0b01010#5 (.simm 1#5) ra
  | .neg ra => packAlu 0b01100#5 (.simm 0#5) ra
  | .rolOne ra => packFive 0b0111101#7 1#5 ra
  | .lsr ra n => packFive 0b0111000#7 n ra
  | .lsl ra n => packFive 0b0111001#7 n ra
  | .asr ra n => packFive 0b0111010#7 n ra
  | .flip ra n => packFive 0b0111011#7 n ra
  | .ror ra n => packFive 0b0111100#7 n ra
  | .rol ra n => packFive 0b0111101#7 n ra
  | .extUw ra rb => packPair 0b01111100#8 rb ra
  | .extSw ra rb => packPair 0b01111101#8 rb ra
  | .extUb ra rb => packPair 0b01111110#8 rb ra
  | .extSb ra rb => packPair 0b01111111#8 rb ra
  | .undefRegOpb op b11 ra rb => packPair (0#1 ++ (op ++ (b11 ++ 0b001#3))) rb ra
  | .mov ra b => packAlu 0b00000#5 b ra
  | .movNot ra b => packAlu 0b00001#5 b ra
  | .and ra b => packAlu 0b00010#5 b ra
  | .andNot ra b => packAlu 0b00011#5 b ra
  | .or ra b => packAlu 0b00100#5 b ra
  | .orNot ra b => packAlu 0b00101#5 b ra
  | .xor ra b => packAlu 0b00110#5 b ra
  | .xorNot ra b => packAlu 0b00111#5 b ra
  | .add ra b => packAlu 0b01000#5 b ra
  | .addSnc ra b => packAlu 0b01001#5 b ra
  | .sub ra b => packAlu 0b01010#5 b ra
  | .subSnb ra b => packAlu 0b01011#5 b ra
  | .rsub ra b => packAlu 0b01100#5 b ra
  | .rsubSnb ra b => packAlu 0b01101#5 b ra
  | .ldqRs a => packQuad 0b1000#4 a 15#4
  | .ldqStack ra base off => packQuad 0b1000#4 (.stack base off) ra
  | .undefLdQuadSign m s ra rb => packMem 0b1000#4 m (0#1 ++ (s ++ 1#1)) rb ra
  | .ldq ra m rb => packQuad 0b1000#4 (.normal m rb) ra
  | .lduw ra m rb => packMem 0b1000#4 (encodeMode m) 0b100#3 rb ra
  | .ldsw ra m rb => packMem 0b1000#4 (encodeMode m) 0b101#3 rb ra
  | .ldub ra m rb => packMem 0b1000#4 (encodeMode m) 0b110#3 rb ra
  | .ldsb ra m rb => packMem 0b1000#4 (encodeMode m) 0b111#3 rb ra
  | .stqRs a => packQuad 0b1001#4 a 15#4
  | .stqStack ra base off => packQuad 0b1001#4 (.stack base off) ra
  | .stq ra m rb => packQuad 0b1001#4 (.normal m rb) ra
  | .stw ra m rb => packMem 0b1001#4 (encodeMode m) 0b100#3 rb ra
  | .stb ra m rb => packMem 0b1001#4 (encodeMode m) 0b110#3 rb ra
  | .undefLeaSize m ra off => packMem 0b1001#4 m 0b001#3 off ra
  | .lea ra m size rb => packMem 0b1001#4 (encodeMode m) (encodeLeaSize size ++ 1#1) rb ra
  | .ldi ea12 => packTwelve 0b1010#4 ea12
  | .imm12 i12 => packTwelve 0b1011#4 i12
  | .di => 0xC704#16
  | .ei => 0xCF04#16
  | .undefCoproc x => packTwelve 0b1100#4 x
  | .skipA => 0xD400#16
  | .skipN => 0xDC00#16
  | .skipLo ra rb => packPair 0b11010000#8 rb ra
  | .skipHs ra rb => packPair 0b11011000#8 rb ra
  | .skipLs ra rb => packPair 0b11010001#8 rb ra
  | .skipHi ra rb => packPair 0b11011001#8 rb ra
  | .skipLt ra rb => packPair 0b11010010#8 rb ra
  | .skipGe ra rb => packPair 0b11011010#8 rb ra
  | .skipLe ra rb => packPair 0b11010011#8 rb ra
  | .skipGt ra rb => packPair 0b11011011#8 rb ra
  | .skipEq ra rb => packPair 0b11010100#8 rb ra
  | .skipNe ra rb => packPair 0b11011100#8 rb ra
  | .skipZ ra => packPair 0b11010101#8 0b0000#4 ra
  | .skipNz ra => packPair 0b11011101#8 0b0000#4 ra
  | .skipAwz ra => packPair 0b11010101#8 0b0001#4 ra
  | .skipNwz ra => packPair 0b11011101#8 0b0001#4 ra
  | .skipAbz ra => packPair 0b11010101#8 0b0010#4 ra
  | .skipNbz ra => packPair 0b11011101#8 0b0010#4 ra
  | .skipLez ra => packPair 0b11010101#8 0b0100#4 ra
  | .skipGtz ra => packPair 0b11011101#8 0b0100#4 ra
  | .skipAwm ra => packPair 0b11010101#8 0b0101#4 ra
  | .skipNwm ra => packPair 0b11011101#8 0b0101#4 ra
  | .skipAbm ra => packPair 0b11010101#8 0b0110#4 ra
  | .skipNbm ra => packPair 0b11011101#8 0b0110#4 ra
  | .undefScc sense ra => packPair (0b1101#4 ++ (sense ++ 0b101#3)) 0b0011#4 ra
  | .skipFs n => packPair 0b11010101#8 0b0111#4 n
  | .skipFc n => packPair 0b11011101#8 0b0111#4 n
  | .skipCpt ccc n => packPair 0b11010101#8 (1#1 ++ ccc) n
  | .skipCpf ccc n => packPair 0b11011101#8 (1#1 ++ ccc) n
  | .skipMi ra => packFive 0b1101011#7 31#5 ra
  | .skipPl ra => packFive 0b1101111#7 31#5 ra
  | .skipBs ra b => packFive 0b1101011#7 b ra
  | .skipBc ra b => packFive 0b1101111#7 b ra
  | .braD i9 => packBranch 0b1110000#7 i9
  | .bra i9 => packBranch 0b1110001#7 i9
  | .bsrD i9 => packBranch 0b1110010#7 i9
  | .bsr i9 => packBranch 0b1110011#7 i9
  | .lbraD i9 => packBranch 0b1110100#7 i9
  | .lbra i9 => packBranch 0b1110101#7 i9
  | .lbsrD i9 => packBranch 0b1110110#7 i9
  | .lbsr i9 => packBranch 0b1110111#7 i9
  | .spamAnd mask => packEight 0b11110111#8 mask
  | .spamXorn trunc mask => packEight (0b11110#5 ++ trunc) mask
  | .jmpD ra => packPair 0b11111000#8 0b0000#4 ra
  | .jmp ra => packPair 0b11111010#8 0b0000#4 ra
  | .jsrD ra => packPair 0b11111100#8 0b0000#4 ra
  | .jsr ra => packPair 0b11111110#8 0b0000#4 ra
  | .rbraD ra => packPair 0b11111000#8 0b0001#4 ra
  | .rbra ra => packPair 0b11111010#8 0b0001#4 ra
  | .rbsrD ra => packPair 0b11111100#8 0b0001#4 ra
  | .rbsr ra => packPair 0b11111110#8 0b0001#4 ra
  | .rtsD => 0xF820#16
  | .rts => 0xFA20#16
  | .rtiD => 0xFC20#16
  | .rti => 0xFE20#16
  | .trapD tr => packEight 0b11111101#8 tr
  | .trap tr => packEight 0b11111111#8 tr
  | .undefBit10 b9 x => packEight (0b111110#6 ++ (b9 ++ 1#1)) x
  | .undefJ b sub ra => packPair (0b11111#5 ++ (b ++ 0#1)) sub ra

/-- The bytes of an instruction in memory order (R65). -/
def encodeBytes (i : Instr) : List Byte := bytesOfWyde (encode i)

end Sys2Proof
end

