-- ==== Sys2Proof/Config.lean ====
section
/-! DEFINITION. What the platform or the implementation fixes (spec 00_scope.md R8, 70_reset_and_hazards.md R344) and the
free values: external draws that the spec leaves to the platform (93_implementation_defined.md row 27, "any value").
A free value has no body, so nothing in Lean can evaluate it. -/

namespace Sys2Proof

/-- FREE VALUE (log 9): the levels of the 16 hardware input flags at the `k`-th sample, bit `n` being `FLAG[n]`
(10_state.md R30: "a model treats each read `FLAG[n]` as an external input sampled when the SKIP executes"). -/
opaque Config.flagLevels : Nat → BitVec 16

/-- FREE VALUE (log 10): what the platform answers to the `k`-th read of a device address (60_exceptions.md R325:
"a device read returns an external draw"). -/
opaque Config.deviceDraw : Nat → Word

/-- `RESET_PC`: execution starts at address 0 (70_reset_and_hazards.md R340). -/
def Config.resetPc : Word := 0x00000000#32

/-- DESIGN CHOICE (log 1): what r0 to r14 hold at reset. The spec gives no value (10_state.md R44). -/
def Config.resetReg : Word := 0x00000000#32

/-- DESIGN CHOICE (log 4): the return stack capacity at reset, the least the spec allows (10_state.md R28,
"with a minimum depth of 16"). -/
def Config.resetRsDepth : Nat := 16

/-- DESIGN CHOICE (log 7): `IE_RESET`, an OPEN parameter of the spec (70_reset_and_hazards.md R341). -/
def Config.resetIe : Bool := false

/-- DESIGN CHOICE (log 2): what a byte of memory that nothing has written reads as. The spec leaves memory contents to
the platform (10_state.md R44). -/
def Config.unlistedByte : Byte := 0x00#8

end Sys2Proof
end

