-- ==== Sys2Proof/Machine/State.lean ====
section
/-! DEFINITION. The state of the machine as plain data: everything spec/10_state.md gives it, the launch parameters of
70_reset_and_hazards.md R344, and the reasons a step can stop. INVENTORY.md, '## State', lists every field with its rule
and its reset value. -/

namespace Sys2Proof.Machine

/-- The three operand sizes of a memory access (20_memory.md R63). -/
inductive Size where
  | byte
  | wyde
  | quad
  deriving DecidableEq, Repr

/-- Memory as a list of (address, byte) cells in one canonical form, `Memory.wf`: addresses strictly rising, every address
a 32-bit one, and no cell equal to what an unlisted address reads as (log 2). -/
abbrev Memory := List Host.Cell

/-- Which kind of instruction produced `skip_next` in the slot just executed (10_state.md R32). -/
inductive SkipKind where
  | none
  | skip
  | cskip
  deriving DecidableEq, Repr

/-- What the platform has at an address (20_memory.md R62). -/
inductive RegionKind where
  | memory
  | device
  deriving DecidableEq, Repr

/-- One region of MEM_MAP: it holds the addresses `base` to `base + bytes - 1`, any run of bytes (log 3). -/
structure Region where
  base : Nat
  bytes : Nat
  kind : RegionKind
  deriving DecidableEq, Repr

/-- The launch parameters the platform and the implementation supply (00_scope.md R8, R344; the OPEN parameters of
92_eei_decisions.md). No step changes them. -/
structure Platform where
  /-- MEM_MAP: the first region that holds an address decides; an address in none has nothing there (R62, log 3). -/
  map : List Region
  /-- RS_DEPTH, the return stack capacity (R28, log 4). -/
  rsDepth : Nat
  /-- FULL_SHIFTER: true for the architecture, false for the Y1A (R163, log 5). -/
  fullShifter : Bool
  /-- RS_MANUAL_ACCESS: whether LD/ST with r15 as data operand is implemented (R191, C1, log 6). -/
  rsManualAccess : Bool
  deriving DecidableEq, Repr

/-- An access to an operand at least one byte of which is a device's, as the platform sees it (20_memory.md R71,
60_exceptions.md R325, logs 11 and 43). The value is the access's own 8, 16 or 32 bits, zero-extended. -/
inductive DeviceEvent where
  | read (addr : Word) (size : Size) (value : Word)
  | write (addr : Word) (size : Size) (value : Word)
  deriving DecidableEq, Repr

/-- The machine's state. -/
structure State where
  /-- r0 to r14; r12 is fp, r13 sp, r14 imm (R20 to R23). Number 15 has no storage (R24). -/
  regs : Vector Word 15
  /-- The address of the next instruction slot (R26). -/
  pc : Word
  /-- The hardware return stack, the top entry first (R28). -/
  rs : List Word
  /-- `skip_next`: the skip test handed to the next slot (R32). -/
  skipNext : Bool
  /-- `skip_kind` (R32). -/
  skipKind : SkipKind
  /-- `sv`: the skip vector; bit 7 belongs to the next slot (R32, R223). -/
  sv : BitVec 8
  /-- `delay_target`: the target awaiting the delay slot; none where no delay slot is pending (R33, R271). -/
  delayTarget : Option Word
  /-- IE: interrupts enabled (R34, R317). -/
  ie : Bool
  /-- SR: named by R36, its width and contents not given, so held as a number with no width; nothing modelled reads or
  writes it (log 8). -/
  sr : Nat
  /-- Memory contents (R38, R60). -/
  mem : Memory
  /-- The addresses written since launch, strictly rising: fetching one faults (R74, log 17). -/
  written : List Nat
  /-- The launch parameters (R344). -/
  plat : Platform
  /-- The model's own: the input flag levels the platform will show, one 16-bit sample for each SKIP.FS or SKIP.FC to
  come; when it is empty the levels are a free value (R30, log 9). -/
  flagIn : List (BitVec 16)
  /-- The model's own: how many flag samples have been taken; it names the next free value (log 9). -/
  flagCount : Nat
  /-- The model's own: the platform's answers to the device reads to come; when it is empty the answer is a free value
  (R325, log 10). -/
  devIn : List Word
  /-- The model's own: how many device reads have been answered; it names the next free value (log 10). -/
  devCount : Nat
  /-- The device accesses performed, oldest first (R71, R325, log 11). -/
  devLog : List DeviceEvent
  deriving DecidableEq, Repr

/-- Why the machine stops with a fault. None is an architectural event (60_exceptions.md R320): no state is saved and no
handler runs. -/
inductive Fault where
  /-- A wyde or quad read at an address that is no multiple of its size: LD (R67, log 14). Safe. -/
  | misalignedRead (addr : Word) (size : Size)
  /-- A wyde or quad write at an address that is no multiple of its size: ST (R67, log 14). Safe. -/
  | misalignedWrite (addr : Word) (size : Size)
  /-- An access one byte of which lies where the platform has neither memory nor a device: LD, ST, LDI, fetch; the spec's
  "stuck" (R62, log 16). Safe. -/
  | unmapped (addr : Word)
  /-- The slot's address is odd: fetch (R69, log 15). Safe. -/
  | oddPc
  /-- A change of flow to an odd address: JMP, JSR, RBRA, RBSR, RTS (R273, log 15). Safe. -/
  | oddTarget (target : Word)
  /-- A fetch of a byte written since launch (R74, log 17). Safe. -/
  | fetchOfWritten (addr : Word)
  /-- A push on a full return stack: calls, LD rs (R28, R275, log 18). Safe. -/
  | rsOverflow
  /-- A pop of an empty return stack: RTS, ST rs (R28, R275, log 18). Safe. -/
  | rsUnderflow
  /-- A word that no format row covers: reserved SCC, format J without a row, 111110x1xxxxxxxx (R110, log 28). Safe. -/
  | undefinedEncoding
  deriving DecidableEq, Repr

/-- Why the model gives an instruction no meaning. -/
inductive Refusal where
  /-- An instruction that has no meaning in this model yet: raised by `exec`'s own arm, never by a meaning. Safe. -/
  | notModelled (mnemonic : String)
  /-- Register-form OPB with bit 8 = 1 (R104, R110, log 28). Safe. -/
  | registerOpbBit8
  /-- LD quad with SIGN = 1 (R192, log 28). Safe. -/
  | ldQuadSigned
  /-- LEA with SIZE = 00 (R201, log 28). Safe. -/
  | leaStackForm
  /-- A coprocessor word other than DI and EI (R215, log 28). Safe. -/
  | coprocessorWord
  /-- SKIP.CPT or SKIP.CPF (R216, log 28). Safe. -/
  | coprocessorSkip
  /-- TRAP (R312, log 13). Safe. -/
  | trapUndefined (tr : BitVec 8)
  /-- RTI (R316, log 13). Safe. -/
  | rtiUndefined
  /-- r15 as a source operand (R25, log 27). Safe. -/
  | r15Source
  /-- r15 as a destination (R25, log 27). Safe. -/
  | r15Destination
  /-- r15 as the data operand of a byte or wyde LD or ST (R191, R197, log 27). Safe. -/
  | rsNonQuad
  /-- A control transfer in a delay slot (R224 a, log 25). Safe. -/
  | transferInDelaySlot
  /-- A skip-class instruction in a delay slot (R224 b, log 25). Safe. -/
  | skipInDelaySlot
  /-- A control transfer while a skip-vector bit is pending (R224 c, log 25). Safe. -/
  | transferUnderVector
  /-- A skip-class instruction while a skip-vector bit is pending (R224 d, log 25). Safe. -/
  | skipUnderVector
  /-- SPAM not directly after an executed SKIP.cc (R224 e, log 25). Safe. -/
  | spamNotInShadow
  /-- A shift count the Y1A shifter lacks, only where FULL_SHIFTER is false (R163, log 5). Safe. -/
  | shifterCount
  /-- LD or ST of r15 where RS_MANUAL_ACCESS is false (C1, log 6). Safe. -/
  | rsManualAccess
  deriving DecidableEq, Repr

/-- MEM_MAP at reset: the whole 32-bit space is memory (DESIGN CHOICE, log 3). -/
def resetMap : List Region := [{ base := 0, bytes := 2 ^ 32, kind := .memory }]

/-- The machine right after reset (10_state.md R44, 70_reset_and_hazards.md R340, R341), with the values of logs 1 to 11
where the spec states none. -/
def State.reset : State where
  regs := Vector.replicate 15 Config.resetReg
  pc := Config.resetPc
  rs := []
  skipNext := false
  skipKind := .none
  sv := 0x00#8
  delayTarget := none
  ie := Config.resetIe
  sr := 0
  mem := []
  written := []
  plat :=
    { map := resetMap
      rsDepth := Config.resetRsDepth
      fullShifter := true
      rsManualAccess := true }
  flagIn := []
  flagCount := 0
  devIn := []
  devCount := 0
  devLog := []

end Sys2Proof.Machine
end

