-- ==== Sys2Proof/Machine/Memory.lean ====
section
/-! DEFINITION. The memory: reading and writing one byte of the cell list, the big-endian operands built from bytes in one
place (spec/20_memory.md R64, R66), the record of written addresses (R74), and MEM_MAP (R62). -/

namespace Sys2Proof.Machine

/-! ## Bytes -/

/-- The byte at an address; an unlisted address reads as `Config.unlistedByte` (log 2). -/
def Memory.read : Memory → Nat → Byte
  | [], _ => Config.unlistedByte
  | c :: m, a => if c.1 = a then c.2 else Memory.read m a

/-- Put a cell at its place in rising order. -/
def Memory.insert : Memory → Host.Cell → Memory
  | [], c => [c]
  | d :: m, c => if c.1 < d.1 then c :: d :: m else d :: Memory.insert m c

/-- Write one byte, keeping the canonical form: the old cell goes, and a cell is listed only where the byte differs from
what an unlisted address reads as. -/
def Memory.write (m : Memory) (a : Nat) (b : Byte) : Memory :=
  let rest := m.filter fun c => c.1 != a
  if b = Config.unlistedByte then rest else Memory.insert rest (a, b)

/-- The canonical form: addresses strictly rising and below 2^32, no cell equal to what an unlisted address reads as. -/
abbrev Memory.wf (m : Memory) : Prop :=
  m.Pairwise (fun c d => c.1 < d.1) ∧ ∀ c ∈ m, c.1 < 2 ^ 32 ∧ c.2 ≠ Config.unlistedByte

/-- Record an address as written since launch, keeping the list strictly rising (R74). -/
def markWritten : List Nat → Nat → List Nat
  | [], a => [a]
  | x :: l, a => if a < x then a :: x :: l else if a = x then x :: l else x :: markWritten l a

/-- The form of the record: strictly rising, every address a 32-bit one. -/
abbrev writtenWf (l : List Nat) : Prop := l.Pairwise (· < ·) ∧ ∀ a ∈ l, a < 2 ^ 32

/-! ## Operands -/

/-- Bytes in an operand (R63). -/
def Size.bytes : Size → Nat
  | .byte => 1
  | .wyde => 2
  | .quad => 4

/-- The low bits of a quad that an operand of the size holds, zero-extended (R66: `v` is an `8n`-bit value). -/
def Size.trunc : Size → Word → Word
  | .byte, v => (v.setWidth 8).setWidth 32
  | .wyde, v => (v.setWidth 16).setWidth 32
  | .quad, v => v

/-- The byte at `addr + i`. -/
def Memory.byteAt (m : Memory) (addr : Word) (i : Nat) : Byte := m.read (addr + BitVec.ofNat 32 i).toNat

/-- The operand whose byte number `i` is `byte i`: byte 0, at the lowest address, is the most significant (R64, R66);
zero-extended. -/
def operandOf (n : Size) (byte : Nat → Byte) : Word :=
  match n with
  | .byte => (byte 0).setWidth 32
  | .wyde => (byte 0 ++ byte 1).setWidth 32
  | .quad => byte 0 ++ (byte 1 ++ (byte 2 ++ byte 3))

/-- Byte number `i` of an operand `v`: its bits `8*(n-i)-1` to `8*(n-1-i)` (R66). -/
def operandByte (n : Size) (v : Word) (i : Nat) : Byte := v.extractLsb' (8 * (n.bytes - 1 - i)) 8

/-- The operand at an address (R66). -/
def Memory.readOperand (m : Memory) (n : Size) (addr : Word) : Word := operandOf n (m.byteAt addr)

/-- The bytes of an operand with their addresses, the most significant at the lowest (R66). -/
def operandCells (n : Size) (addr v : Word) : List Host.Cell :=
  match n with
  | .byte => [(addr.toNat, v.extractLsb' 0 8)]
  | .wyde => [(addr.toNat, v.extractLsb' 8 8), ((addr + 1#32).toNat, v.extractLsb' 0 8)]
  | .quad =>
    [(addr.toNat, v.extractLsb' 24 8), ((addr + 1#32).toNat, v.extractLsb' 16 8),
     ((addr + 2#32).toNat, v.extractLsb' 8 8), ((addr + 3#32).toNat, v.extractLsb' 0 8)]

/-- Write cells in the order given. -/
def Memory.writeCells (m : Memory) (cells : List Host.Cell) : Memory :=
  cells.foldl (fun m c => m.write c.1 c.2) m

/-- Record the addresses of cells as written. -/
def markCells (l : List Nat) (cells : List Host.Cell) : List Nat :=
  cells.foldl (fun l c => markWritten l c.1) l

/-- An address is a multiple of the operand's size (R67). -/
def aligned (n : Size) (addr : Word) : Bool := addr.toNat % n.bytes == 0

/-! ## MEM_MAP -/

/-- The region holds an address. -/
def Region.holds (r : Region) (a : Nat) : Bool := r.base ≤ a && a < r.base + r.bytes

/-- What the platform has at the byte of an address: the first region that holds it decides; none where there is nothing
(R62, log 3). -/
def kindAt : List Region → Nat → Option RegionKind
  | [], _ => none
  | r :: map, a => if r.holds a then some r.kind else kindAt map a

/-- What an access to an operand of a size at an aligned address meets: nothing, where one byte of it has nothing (R62); a
device, where one byte of it is a device's (log 43); else memory. -/
def accessKind (map : List Region) (n : Size) (addr : Word) : Option RegionKind :=
  let kinds := (List.range n.bytes).map fun i => kindAt map (addr.toNat + i)
  if none ∈ kinds then none else if some .device ∈ kinds then some .device else some .memory

/-- The cells that lie in memory. -/
def memoryCells (map : List Region) (cells : List Host.Cell) : List Host.Cell :=
  cells.filter fun c => kindAt map c.1 == some .memory

end Sys2Proof.Machine
end

