-- ==== Sys2Proof/Machine/Update.lean ====
section
/-! DEFINITION. The named updates of the state: what every meaning writes, it writes through one of these. Their effect on
each field is in Laws/State.lean. -/

namespace Sys2Proof.Machine

/-- The register of a number; none for number 15, which is no storage register (10_state.md R20, R24). -/
def State.reg? (s : State) (r : RegNo) : Option Word := s.regs[r.toNat]?

/-- fp, that is r12 (R22). -/
def State.fp (s : State) : Word := s.regs[12]

/-- sp, that is r13 (R22). -/
def State.sp (s : State) : Word := s.regs[13]

/-- imm, that is r14 (R23). -/
def State.imm (s : State) : Word := s.regs[14]

/-- Write a storage register; for number 15 nothing is stored (R24). -/
def State.setReg (s : State) (r : RegNo) (v : Word) : State :=
  { s with regs := s.regs.setIfInBounds r.toNat v }

/-- Set the program counter. -/
def State.setPc (s : State) (a : Word) : State := { s with pc := a }

/-- Set the return stack. -/
def State.setRs (s : State) (l : List Word) : State := { s with rs := l }

/-- Set IE. -/
def State.setIe (s : State) (b : Bool) : State := { s with ie := b }

/-- Hand a skip test to the next slot (44_skip_spam.md R220). -/
def State.setSkip (s : State) (b : Bool) (k : SkipKind) : State := { s with skipNext := b, skipKind := k }

/-- Load the skip vector (R257). -/
def State.setSv (s : State) (v : BitVec 8) : State := { s with sv := v }

/-- Set the pending delay-slot target (R271). -/
def State.setDelay (s : State) (t : Option Word) : State := { s with delayTarget := t }

/-- Store an operand's cells and record their addresses as written (20_memory.md R66, R74). -/
def State.storeCells (s : State) (cells : List Host.Cell) : State :=
  { s with mem := s.mem.writeCells cells, written := markCells s.written cells }

/-- Record the addresses of an access that meets a device as written (R74, log 17). -/
def State.markDevice (s : State) (cells : List Host.Cell) : State :=
  { s with written := markCells s.written cells }

/-- Record a device access (R71, R325). -/
def State.logDevice (s : State) (e : DeviceEvent) : State := { s with devLog := s.devLog ++ [e] }

/-- One flag sample has been taken. -/
def State.tookFlag (s : State) : State := { s with flagIn := s.flagIn.tail, flagCount := s.flagCount + 1 }

/-- One device answer has been taken. -/
def State.tookDevice (s : State) : State := { s with devIn := s.devIn.tail, devCount := s.devCount + 1 }

/-- The bookkeeping that opens every slot: one bit of the skip vector is consumed, the skip test and the pending
delay-slot target are taken (R220, R223). -/
def State.enter (s : State) : State :=
  { s with sv := s.sv <<< 1, skipNext := false, skipKind := .none, delayTarget := none }

end Sys2Proof.Machine
end

