-- ==== Sys2Proof/Machine/Ops.lean ====
section
/-! DEFINITION. The shared operations: reading and writing registers, memory accesses, the return stack, the external
inputs, and the shapes of an executed instruction slot (spec/44_skip_spam.md R220).

There is no operation that takes an exception and none that returns from one: the only events of spec/60_exceptions.md are
TRAP and the external interrupt, and the spec describes the entry of neither (R312, R314, R318) nor what RTI restores
(R316); it tells a model to refuse TRAP and RTI and to have no interrupt entry (logs 12, 13). -/

namespace Sys2Proof.Machine

/-- A result with the machine's reasons to stop. -/
abbrev Res (α : Type) := Host.Outcome α Fault Refusal

/-- Continue with the value of a result; a stop stays that stop. -/
def andThen {α β : Type} (r : Res α) (f : α → Res β) : Res β :=
  match r with
  | .next a => f a
  | .fault e => .fault e
  | .refused e => .refused e

/-- Answer the value, or stop for the refusal. -/
def orRefuse {α : Type} (o : Option α) (e : Refusal) : Res α :=
  match o with
  | some a => .next a
  | none => .refused e

/-! ## Registers -/

/-- Read a register as a source operand; number 15 is refused (10_state.md R25, log 27). -/
def readReg (s : State) (r : RegNo) : Res Word := orRefuse (s.reg? r) .r15Source

/-- Write a register; number 15 is refused (R25, log 27). -/
def writeReg (s : State) (r : RegNo) (v : Word) : Res State :=
  if r = 15#4 then .refused .r15Destination else .next (s.setReg r v)

/-- Register number 15 as an address base is the address of the current instruction (R24, R26). -/
def readBase (s : State) (r : RegNo) : Word := (s.reg? r).getD s.pc

/-! ## The return stack (R28, R275) -/

/-- `RS.push(v)`: a push on a full stack faults (log 18). -/
def rsPush (s : State) (v : Word) : Res State :=
  if s.rs.length < s.plat.rsDepth then .next (s.setRs (v :: s.rs)) else .fault .rsOverflow

/-- `RS.pop()`: a pop of an empty stack faults (log 18). -/
def rsPop (s : State) : Res (Word × State) :=
  match s.rs with
  | v :: rest => .next (v, s.setRs rest)
  | [] => .fault .rsUnderflow

/-! ## External inputs -/

/-- The flag levels of the next sample: what the platform supplied, else the free value (R30, log 9). -/
def nextLevels (s : State) : BitVec 16 := s.flagIn.headD (Config.flagLevels s.flagCount)

/-- The next device answer: what the platform supplied, else the free value (60_exceptions.md R325, log 10). -/
def nextDraw (s : State) : Word := s.devIn.headD (Config.deviceDraw s.devCount)

/-! ## Memory accesses (20_memory.md R66, R67, R71) -/

/-- The operand that a read which meets a device gives: each byte of a device is that byte of the one draw, each byte of
memory is the memory's (R66, R325, logs 10 and 43). -/
def deviceOperand (s : State) (n : Size) (addr : Word) : Word :=
  operandOf n fun i =>
    if kindAt s.plat.map (addr.toNat + i) = some .device then operandByte n (nextDraw s) i else s.mem.byteAt addr i

/-- `MemRead(addr, n)`, zero-extended: one access; where it meets a device it takes one external draw and is recorded. -/
def memRead (n : Size) (addr : Word) (s : State) : Res (Word × State) :=
  if aligned n addr then
    match accessKind s.plat.map n addr with
    | some .memory => .next (s.mem.readOperand n addr, s)
    | some .device =>
      let v := deviceOperand s n addr
      .next (v, s.tookDevice.logDevice (.read addr n v))
    | none => .fault (.unmapped addr)
  else .fault (.misalignedRead addr n)

/-- `MemWrite(addr, n, v)` of the low bits of `v`: one access; where it meets a device its bytes in memory are stored there
and the access is recorded as one output event (logs 11, 17 and 43). -/
def memWrite (n : Size) (addr v : Word) (s : State) : Res State :=
  if aligned n addr then
    let cells := operandCells n addr v
    match accessKind s.plat.map n addr with
    | some .memory => .next (s.storeCells cells)
    | some .device =>
      let stored := s.storeCells (memoryCells s.plat.map cells)
      .next ((stored.markDevice cells).logDevice (.write addr n (n.trunc v)))
    | none => .fault (.unmapped addr)
  else .fault (.misalignedWrite addr n)

/-! ## The instruction slot (R220, R221, R224) -/

/-- Where the slot after this one stands when this one transfers no control: the pending delay-slot target, else the next
instruction (R220 `next`, R27, R271). The sum is modular (log 29). -/
def State.nextPc (s : State) : Word := s.delayTarget.getD (s.pc + 2#32)

/-- A nullified slot: nothing happens but the slot's bookkeeping (R221). -/
def nullifiedSlot (s : State) : State := s.enter.setPc s.nextPc

/-- An executed instruction that makes no skip test and transfers no control. Its effect sees `pc` as its own address. -/
def plainSlot (s : State) (effect : State → Res State) : Res State :=
  andThen (effect s.enter) fun t => .next (t.setPc s.nextPc)

/-- An executed skip-class instruction, with the placement restrictions of R224 b and d (log 25), in this order
(DESIGN CHOICE, log 44). -/
def skipSlot (s : State) (effect : State → Res State) : Res State :=
  if s.delayTarget.isSome then .refused .skipInDelaySlot
  else if s.enter.sv ≠ 0#8 then .refused .skipUnderVector
  else plainSlot s effect

/-- A SKIP.cc: the test becomes `skip_next`, and `skip_kind` is SKIP (R225). -/
def skipTest (s : State) (cond : State → Res Bool) : Res State :=
  skipSlot s fun t => andThen (cond t) fun b => .next (t.setSkip b .skip)

/-- A SPAM: it takes the skip test of the SKIP.cc executed just before, and loads the skip vector (R224 e, R257). That
R224 e comes after b and d is the model's choice (DESIGN CHOICE, log 44). -/
def spamSlot (s : State) (vector : Bool → BitVec 8) : Res State :=
  skipSlot s fun t =>
    if s.skipKind = .skip then .next (t.setSv (vector s.skipNext)) else .refused .spamNotInShadow

/-- The address pushed by a call: the instruction after it, or after its delay slot where that is executed (R274, log 19). -/
def returnAddress (s : State) (dnull : Bool) : Word := if dnull then s.pc + 2#32 else s.pc + 4#32

/-- `pc <- target` with a DNULL bit: the next slot is at the target (DNULL = 1), or the delay slot comes first (DNULL = 0)
(R220, R271); an odd target faults (R273, log 15). -/
def transferTo (s : State) (dnull : Bool) (target : Word) : Res State :=
  if target.getLsbD 0 then .fault (.oddTarget target)
  else if dnull then .next (s.setPc target)
  else .next ((s.setDelay (some target)).setPc (s.pc + 2#32))

/-- An executed control transfer, with the placement restrictions of R224 a and c (log 25), in this order (DESIGN CHOICE,
log 44): `effect` gives the target and the state after any push or pop. -/
def transferSlot (s : State) (dnull : Bool) (effect : State → Res (Word × State)) : Res State :=
  if s.delayTarget.isSome then .refused .transferInDelaySlot
  else if s.enter.sv ≠ 0#8 then .refused .transferUnderVector
  else andThen (effect s.enter) fun p => transferTo p.2 dnull p.1

/-- A jump to the target the effect computes (R270). -/
def jumpSlot (s : State) (dnull : Bool) (target : State → Res Word) : Res State :=
  transferSlot s dnull fun t => andThen (target t) fun a => .next (a, t)

/-- A call: the target is read, the return address pushed, then control goes to the target (R275, R287). -/
def callSlot (s : State) (dnull : Bool) (target : State → Res Word) : Res State :=
  transferSlot s dnull fun t =>
    andThen (target t) fun a => andThen (rsPush t (returnAddress t dnull)) fun u => .next (a, u)

/-- The slot of an instruction word is nullified: by its bit of the skip vector, or by the skip test of the slot before,
which SPAM does not heed (R220). -/
def nullified (w : Wyde) (s : State) : Bool :=
  if isSpamWord w then s.sv.getLsbD 7 else s.sv.getLsbD 7 || s.skipNext

/-- The instruction word at `pc`: a big-endian wyde read (R65, R220); an odd `pc` faults (R69, log 15), and so does a byte
written since launch (R74, log 17). Where a byte is written and a byte has nothing there (R62), the spec does not say which
stop it is: that the written bytes are tested first is the model's choice (DESIGN CHOICE, log 44). The state changes only
where the word comes from a device (log 38). -/
def fetch (s : State) : Res (Wyde × State) :=
  if s.pc.getLsbD 0 then .fault .oddPc
  else if s.pc.toNat ∈ s.written ∨ (s.pc + 1#32).toNat ∈ s.written then .fault (.fetchOfWritten s.pc)
  else andThen (memRead .wyde s.pc s) fun p => .next (p.1.setWidth 16, p.2)

end Sys2Proof.Machine
end

