-- ==== Sys2Proof/Machine/Operands.lean ====
section
/-! DEFINITION. Every operand form: operand B of formats L and A (spec/30_encoding.md R104), the addressing modes
(42_memory_group.md R180 to R184), the offsets of LDI and of the branches (R105, R106, R202), and the shift, rotate and
flip functions (41_arithmetic.md R164 to R169). -/

namespace Sys2Proof.Machine

/-! ## Operand B (R104) -/

/-- The value of operand B. -/
def opbValue (s : State) (b : Opb) : Res Word :=
  match b with
  | .reg rb => readReg s rb
  | .simm v => .next (v.signExtend 32)
  | .pow2 n => .next (1#32 <<< n.toNat)
  | .mask n => .next ((1#32 <<< n.toNat) - 1#32)

/-! ## Effective addresses -/

/-- The normal modes: the base, plus imm where MODE = 1 (R180); r15 as base is the pc (R24, R183). -/
def effAddr (s : State) (mode : AddrMode) (rb : RegNo) : Word :=
  match mode with
  | .plain => readBase s rb
  | .imm => readBase s rb + s.imm

/-- The stack offset mode: fp or sp plus four times the offset (R107, R184). -/
def stackAddr (s : State) (base : StackBase) (off : BitVec 4) : Word :=
  match base with
  | .fp => s.fp + 4#32 * off.setWidth 32
  | .sp => s.sp + 4#32 * off.setWidth 32

/-- Either form of a quad access (R191, R197). -/
def quadAddr (s : State) (a : QuadAddr) : Word :=
  match a with
  | .normal mode rb => effAddr s mode rb
  | .stack base off => stackAddr s base off

/-- The address LDI reads: the quad-aligned pc plus four times EA12 (R106, R202). -/
def ldiAddr (s : State) (ea12 : BitVec 12) : Word := (s.pc &&& 0xFFFFFFFC#32) + 4#32 * ea12.setWidth 32

/-! ## Branch targets (R105) -/

/-- LBRA = 0: the pc plus twice the signed 9-bit offset. -/
def shortTarget (s : State) (i9 : BitVec 9) : Word := s.pc + (i9.signExtend 32 <<< 1)

/-- LBRA = 1: the pc plus twice the instruction offset whose low 9 bits are I9 and whose upper bits are imm (log 21). -/
def longTarget (s : State) (i9 : BitVec 9) : Word := s.pc + ((s.imm <<< 10) + (i9.setWidth 32 <<< 1))

/-- JMP and JSR: the register (R285). -/
def absoluteTarget (ra : RegNo) (s : State) : Res Word := readReg s ra

/-- RBRA and RBSR: the pc plus the register, in bytes (R289, log 40). -/
def relativeTarget (ra : RegNo) (s : State) : Res Word := andThen (readReg s ra) fun x => .next (s.pc + x)

/-! ## Shifts, rotates, flip -/

/-- LSR (R164). -/
def shiftLsr (x : Word) (n : BitVec 5) : Word := x >>> n.toNat

/-- LSL (R165). -/
def shiftLsl (x : Word) (n : BitVec 5) : Word := x <<< n.toNat

/-- ASR (R166). -/
def shiftAsr (x : Word) (n : BitVec 5) : Word := x.sshiftRight n.toNat

/-- ROR (R167): for N = 0 the left shift by 32 gives 0 and the value is unchanged. -/
def shiftRor (x : Word) (n : BitVec 5) : Word := (x >>> n.toNat) ||| (x <<< (32 - n.toNat))

/-- ROL (R168). -/
def shiftRol (x : Word) (n : BitVec 5) : Word := (x <<< n.toNat) ||| (x >>> (32 - n.toNat))

/-- One stage of FLIP: swap the even and odd fields of width `k` that `m` selects, where it is enabled (R169). -/
def flipStage (enabled : Bool) (m : Word) (k : Nat) (v : Word) : Word :=
  if enabled then ((v &&& m) <<< k) ||| ((v >>> k) &&& m) else v

/-- FLIP: five independently enabled swaps (R169). -/
def flipBits (x : Word) (n : BitVec 5) : Word :=
  let v0 := flipStage (n.getLsbD 0) 0x55555555#32 1 x
  let v1 := flipStage (n.getLsbD 1) 0x33333333#32 2 v0
  let v2 := flipStage (n.getLsbD 2) 0x0F0F0F0F#32 4 v1
  let v3 := flipStage (n.getLsbD 3) 0x00FF00FF#32 8 v2
  flipStage (n.getLsbD 4) 0x0000FFFF#32 16 v3

/-- The counts the Y1A shifter has for LSR, ASR and ROR (R163). -/
def y1aCountOne (n : BitVec 5) : Bool := n == 1#5

/-- The counts the Y1A shifter has for LSL and ROL (R163). -/
def y1aCountOneTwo (n : BitVec 5) : Bool := n == 1#5 || n == 2#5

/-! ## Extensions and truncations (R63, R170 to R173) -/

/-- The low wyde, zero-extended. -/
def zextWyde (x : Word) : Word := (x.setWidth 16).setWidth 32

/-- The low wyde, sign-extended. -/
def sextWyde (x : Word) : Word := (x.setWidth 16).signExtend 32

/-- The low byte, zero-extended. -/
def zextByte (x : Word) : Word := (x.setWidth 8).setWidth 32

/-- The low byte, sign-extended. -/
def sextByte (x : Word) : Word := (x.setWidth 8).signExtend 32

end Sys2Proof.Machine
end

