-- ==== Sys2Proof/Machine/Logical.lean ====
section
/-! DEFINITION. The logical and move group (spec/40_logical_move.md R130 to R142). One register is written; no memory
access, no skip test (R131). -/

namespace Sys2Proof.Machine

/-- MOV and its forms: `x[RA] <- f(opb)`; RA is not read (R132). -/
def moveSlot (s : State) (ra : RegNo) (b : Opb) (f : Word → Word) : Res State :=
  plainSlot s fun t => andThen (opbValue t b) fun y => writeReg t ra (f y)

/-- The two-operand shape: `x[RA] <- f(x[RA], opb)`, both read before the write (R130, R131, R156). -/
def aluSlot (s : State) (ra : RegNo) (b : Opb) (f : Word → Word → Word) : Res State :=
  plainSlot s fun t =>
    andThen (readReg t ra) fun x => andThen (opbValue t b) fun y => writeReg t ra (f x y)

/-- NOP: `mov r0,r0` (R142). -/
def execNop (s : State) : Res State := moveSlot s 0#4 (.reg 0#4) fun y => y

/-- CLR: `mov ra,#0` (R140). -/
def execClr (ra : RegNo) (s : State) : Res State := moveSlot s ra (.simm 0#5) fun y => y

/-- NOT: `xor ra,#-1` (R141). -/
def execNot (ra : RegNo) (s : State) : Res State := aluSlot s ra (.simm 31#5) fun x y => x ^^^ y

/-- MOV: `x[RA] <- opb` (R132). -/
def execMov (ra : RegNo) (b : Opb) (s : State) : Res State := moveSlot s ra b fun y => y

/-- MOV.NOT: `x[RA] <- ~opb` (R133). -/
def execMovNot (ra : RegNo) (b : Opb) (s : State) : Res State := moveSlot s ra b fun y => ~~~y

/-- AND: `x[RA] <- x[RA] & opb` (R134). -/
def execAnd (ra : RegNo) (b : Opb) (s : State) : Res State := aluSlot s ra b fun x y => x &&& y

/-- AND.NOT: `x[RA] <- x[RA] & ~opb` (R135). -/
def execAndNot (ra : RegNo) (b : Opb) (s : State) : Res State := aluSlot s ra b fun x y => x &&& ~~~y

/-- OR: `x[RA] <- x[RA] | opb` (R136). -/
def execOr (ra : RegNo) (b : Opb) (s : State) : Res State := aluSlot s ra b fun x y => x ||| y

/-- OR.NOT: `x[RA] <- x[RA] | ~opb` (R137). -/
def execOrNot (ra : RegNo) (b : Opb) (s : State) : Res State := aluSlot s ra b fun x y => x ||| ~~~y

/-- XOR: `x[RA] <- x[RA] ^ opb` (R138). -/
def execXor (ra : RegNo) (b : Opb) (s : State) : Res State := aluSlot s ra b fun x y => x ^^^ y

/-- XOR.NOT: `x[RA] <- x[RA] ^ ~opb` (R139). -/
def execXorNot (ra : RegNo) (b : Opb) (s : State) : Res State := aluSlot s ra b fun x y => x ^^^ ~~~y

end Sys2Proof.Machine
end

