-- ==== Sys2Proof/Machine/Arithmetic.lean ====
section
/-! DEFINITION. ADD, SUB, RSUB and their skip forms (spec/41_arithmetic.md R150 to R160). Results wrap modulo 2^32; the
carry or borrow exists only as the skip test of the .SNC and .SNB forms (R157). -/

namespace Sys2Proof.Machine

/-- The CSKIP shape: the result is written, and the next instruction is skipped where no carry or borrow occurred
(R151, R153, R155). -/
def cskipSlot (s : State) (ra : RegNo) (b : Opb) (f : Word → Word → Word) (carry : Word → Word → Bool) : Res State :=
  skipSlot s fun t =>
    andThen (readReg t ra) fun x => andThen (opbValue t b) fun y =>
      andThen (writeReg t ra (f x y)) fun u => .next (u.setSkip (!carry x y) .cskip)

/-- INC: `add ra,#1` (R158). -/
def execInc (ra : RegNo) (s : State) : Res State := aluSlot s ra (.simm 1#5) fun x y => x + y

/-- DEC: `sub ra,#1` (R159). -/
def execDec (ra : RegNo) (s : State) : Res State := aluSlot s ra (.simm 1#5) fun x y => x - y

/-- NEG: `rsub ra,#0` (R160). -/
def execNeg (ra : RegNo) (s : State) : Res State := aluSlot s ra (.simm 0#5) fun x y => y - x

/-- ADD (R150). -/
def execAdd (ra : RegNo) (b : Opb) (s : State) : Res State := aluSlot s ra b fun x y => x + y

/-- ADD.SNC (R151). -/
def execAddSnc (ra : RegNo) (b : Opb) (s : State) : Res State := cskipSlot s ra b (fun x y => x + y) carryOut

/-- SUB (R152). -/
def execSub (ra : RegNo) (b : Opb) (s : State) : Res State := aluSlot s ra b fun x y => x - y

/-- SUB.SNB (R153). -/
def execSubSnb (ra : RegNo) (b : Opb) (s : State) : Res State := cskipSlot s ra b (fun x y => x - y) borrowOut

/-- RSUB (R154). -/
def execRsub (ra : RegNo) (b : Opb) (s : State) : Res State := aluSlot s ra b fun x y => y - x

/-- RSUB.SNB: the minuend is operand B (R155). -/
def execRsubSnb (ra : RegNo) (b : Opb) (s : State) : Res State :=
  cskipSlot s ra b (fun x y => y - x) fun x y => borrowOut y x

end Sys2Proof.Machine
end

