-- ==== Sys2Proof/Machine/Interrupts.lean ====
section
/-! DEFINITION. DI and EI (spec/43_coprocessor.md R213, R214). The interrupt they enable has no entry in the model, by the
launch premise of 60_exceptions.md R318 (log 12). -/

namespace Sys2Proof.Machine

/-- DI: `IE <- 0` (R213). -/
def execDi (s : State) : Res State := plainSlot s fun t => .next (t.setIe false)

/-- EI: `IE <- 1` (R214). -/
def execEi (s : State) : Res State := plainSlot s fun t => .next (t.setIe true)

end Sys2Proof.Machine
end

