-- ==== Sys2Proof/Machine/MemoryGroup.lean ====
section
/-! DEFINITION. The memory group (spec/42_memory_group.md R180 to R204): LD, ST, the return-stack forms, LEA, LDI, IMM12.
The address operands are read before anything is written, and each executed LD, ST or LDI makes exactly one data access
(R198). -/

namespace Sys2Proof.Machine

/-- A push or pop by LD or ST of r15: refused where RS_MANUAL_ACCESS is false (R191, R197; C1, log 6). -/
def withManualAccess (s : State) (r : Res State) : Res State :=
  if s.plat.rsManualAccess then r else .refused .rsManualAccess

/-- LD with RA = 15: the loaded quad is pushed on the return stack (R191). -/
def loadPush (s : State) (ea : State → Word) : Res State :=
  withManualAccess s <| plainSlot s fun t =>
    andThen (memRead .quad (ea t) t) fun p => rsPush p.2 p.1

/-- A quad load; RA = 15 is the push (R185, R186). -/
def loadQuad (s : State) (ra : RegNo) (ea : State → Word) : Res State :=
  if ra = 15#4 then loadPush s ea
  else plainSlot s fun t => andThen (memRead .quad (ea t) t) fun p => writeReg p.2 ra p.1

/-- A byte or wyde load with its extension; into r15 it is refused (R187 to R191, log 27), whatever
its access would meet (DESIGN CHOICE, log 44). -/
def loadPart (s : State) (n : Size) (ra : RegNo) (mode : AddrMode) (rb : RegNo) (ext : Word → Word) : Res State :=
  if ra = 15#4 then .refused .rsNonQuad
  else plainSlot s fun t => andThen (memRead n (effAddr t mode rb) t) fun p => writeReg p.2 ra (ext p.1)

/-- ST with RA = 15: the quad popped from the return stack is stored (R197). -/
def storePop (s : State) (ea : State → Word) : Res State :=
  withManualAccess s <| plainSlot s fun t =>
    andThen (rsPop t) fun p => memWrite .quad (ea t) p.1 p.2

/-- A quad store; RA = 15 is the pop (R193, R194). -/
def storeQuad (s : State) (ra : RegNo) (ea : State → Word) : Res State :=
  if ra = 15#4 then storePop s ea
  else plainSlot s fun t => andThen (readReg t ra) fun x => memWrite .quad (ea t) x t

/-- A byte or wyde store of the low bits; of r15 it is refused (R195 to R197, log 27), whatever
its access would meet (DESIGN CHOICE, log 44). -/
def storePart (s : State) (n : Size) (ra : RegNo) (mode : AddrMode) (rb : RegNo) : Res State :=
  if ra = 15#4 then .refused .rsNonQuad
  else plainSlot s fun t => andThen (readReg t ra) fun x => memWrite n (effAddr t mode rb) x t

/-- LD rs (R191). -/
def execLdqRs (a : QuadAddr) (s : State) : Res State := loadPush s fun t => quadAddr t a

/-- LD.Q, stack offset (R186). -/
def execLdqStack (ra : RegNo) (base : StackBase) (off : BitVec 4) (s : State) : Res State :=
  loadQuad s ra fun t => stackAddr t base off

/-- LD.Q, normal modes (R185). -/
def execLdq (ra : RegNo) (mode : AddrMode) (rb : RegNo) (s : State) : Res State :=
  loadQuad s ra fun t => effAddr t mode rb

/-- LD.UW (R187). -/
def execLduw (ra : RegNo) (mode : AddrMode) (rb : RegNo) (s : State) : Res State := loadPart s .wyde ra mode rb zextWyde

/-- LD.SW (R188). -/
def execLdsw (ra : RegNo) (mode : AddrMode) (rb : RegNo) (s : State) : Res State := loadPart s .wyde ra mode rb sextWyde

/-- LD.UB (R189). -/
def execLdub (ra : RegNo) (mode : AddrMode) (rb : RegNo) (s : State) : Res State := loadPart s .byte ra mode rb zextByte

/-- LD.SB (R190). -/
def execLdsb (ra : RegNo) (mode : AddrMode) (rb : RegNo) (s : State) : Res State := loadPart s .byte ra mode rb sextByte

/-- ST rs (R197). -/
def execStqRs (a : QuadAddr) (s : State) : Res State := storePop s fun t => quadAddr t a

/-- ST.Q, stack offset (R194). -/
def execStqStack (ra : RegNo) (base : StackBase) (off : BitVec 4) (s : State) : Res State :=
  storeQuad s ra fun t => stackAddr t base off

/-- ST.Q, normal modes (R193). -/
def execStq (ra : RegNo) (mode : AddrMode) (rb : RegNo) (s : State) : Res State :=
  storeQuad s ra fun t => effAddr t mode rb

/-- ST.W (R195). -/
def execStw (ra : RegNo) (mode : AddrMode) (rb : RegNo) (s : State) : Res State := storePart s .wyde ra mode rb

/-- ST.B (R196). -/
def execStb (ra : RegNo) (mode : AddrMode) (rb : RegNo) (s : State) : Res State := storePart s .byte ra mode rb

/-- LEA: the effective address itself; the SIZE field makes no difference (R199, R200). -/
def execLea (ra : RegNo) (mode : AddrMode) (_size : LeaSize) (rb : RegNo) (s : State) : Res State :=
  plainSlot s fun t => writeReg t ra (effAddr t mode rb)

/-- LDI: a PC-relative quad into imm (R202). -/
def execLdi (ea12 : BitVec 12) (s : State) : Res State :=
  plainSlot s fun t => andThen (memRead .quad (ldiAddr t ea12) t) fun p => writeReg p.2 14#4 p.1

/-- IMM12: the sign-extended constant into imm (R106, R203). -/
def execImm12 (i12 : BitVec 12) (s : State) : Res State :=
  plainSlot s fun t => writeReg t 14#4 (i12.signExtend 32)

end Sys2Proof.Machine
end

