-- ==== Sys2Proof/Machine/Shift.lean ====
section
/-! DEFINITION. Shifts, rotates, FLIP and EXT (spec/41_arithmetic.md R161 to R174). -/

namespace Sys2Proof.Machine

/-- The common shape: `x[RA] <- f(x[RA])` (R161). -/
def unarySlot (s : State) (ra : RegNo) (f : Word → Word) : Res State :=
  plainSlot s fun t => andThen (readReg t ra) fun x => writeReg t ra (f x)

/-- A shift or rotate: where FULL_SHIFTER is false, a count the Y1A lacks is refused (R163, log 5). -/
def shiftSlot (s : State) (ra : RegNo) (n : BitVec 5) (y1aHas : BitVec 5 → Bool) (f : Word → BitVec 5 → Word) :
    Res State :=
  if s.plat.fullShifter || y1aHas n then unarySlot s ra fun x => f x n else .refused .shifterCount

/-- EXT: `x[RA] <- f(x[RB])`; RA is not read (R174). -/
def extSlot (s : State) (ra rb : RegNo) (f : Word → Word) : Res State :=
  plainSlot s fun t => andThen (readReg t rb) fun x => writeReg t ra (f x)

/-- LSR (R164). -/
def execLsr (ra : RegNo) (n : BitVec 5) (s : State) : Res State := shiftSlot s ra n y1aCountOne shiftLsr

/-- LSL (R165). -/
def execLsl (ra : RegNo) (n : BitVec 5) (s : State) : Res State := shiftSlot s ra n y1aCountOneTwo shiftLsl

/-- ASR (R166). -/
def execAsr (ra : RegNo) (n : BitVec 5) (s : State) : Res State := shiftSlot s ra n y1aCountOne shiftAsr

/-- FLIP, which the Y1A limitation does not touch (R163, R169). -/
def execFlip (ra : RegNo) (n : BitVec 5) (s : State) : Res State := unarySlot s ra fun x => flipBits x n

/-- ROR (R167). -/
def execRor (ra : RegNo) (n : BitVec 5) (s : State) : Res State := shiftSlot s ra n y1aCountOne shiftRor

/-- ROL (R168). -/
def execRol (ra : RegNo) (n : BitVec 5) (s : State) : Res State := shiftSlot s ra n y1aCountOneTwo shiftRol

/-- The one-operand ROL: `rol ra,#1` (R113, R168). -/
def execRolOne (ra : RegNo) (s : State) : Res State := shiftSlot s ra 1#5 y1aCountOneTwo shiftRol

/-- EXT.UW (R170). -/
def execExtUw (ra rb : RegNo) (s : State) : Res State := extSlot s ra rb zextWyde

/-- EXT.SW (R171). -/
def execExtSw (ra rb : RegNo) (s : State) : Res State := extSlot s ra rb sextWyde

/-- EXT.UB (R172). -/
def execExtUb (ra rb : RegNo) (s : State) : Res State := extSlot s ra rb zextByte

/-- EXT.SB (R173). -/
def execExtSb (ra rb : RegNo) (s : State) : Res State := extSlot s ra rb sextByte

end Sys2Proof.Machine
end

