-- ==== Sys2Proof/Machine/Skip.lean ====
section
/-! DEFINITION. SKIP.cc (spec/44_skip_spam.md R225 to R255). The second instruction of each pair tests the exact complement
of the first (R225). WHEN is another name of the same words (R256). -/

namespace Sys2Proof.Machine

/-- A register-register skip (R225). -/
def skipPair (s : State) (ra rb : RegNo) (cond : Word → Word → Bool) : Res State :=
  skipTest s fun t => andThen (readReg t ra) fun x => andThen (readReg t rb) fun y => .next (cond x y)

/-- A skip on one register (R225). -/
def skipUnary (s : State) (ra : RegNo) (cond : Word → Bool) : Res State :=
  skipTest s fun t => andThen (readReg t ra) fun x => .next (cond x)

/-- A skip on an input flag, sampled when the instruction executes; no register is read (R248). -/
def skipFlag (s : State) (n : BitVec 4) (cond : Bool → Bool) : Res State :=
  skipSlot s fun t => .next (t.tookFlag.setSkip (cond ((nextLevels t).getLsbD n.toNat)) .skip)

/-- SKIP.A: `skip.eq r0,r0` (R254). -/
def execSkipA (s : State) : Res State := skipPair s 0#4 0#4 condEq

/-- SKIP.N: `skip.ne r0,r0` (R255). -/
def execSkipN (s : State) : Res State := skipPair s 0#4 0#4 fun x y => !condEq x y

/-- SKIP.LO: unsigned `ra < rb` (R226). -/
def execSkipLo (ra rb : RegNo) (s : State) : Res State := skipPair s ra rb fun x y => condLo x y

/-- SKIP.HS: unsigned `ra >= rb` (R227). -/
def execSkipHs (ra rb : RegNo) (s : State) : Res State := skipPair s ra rb fun x y => !condLo x y

/-- SKIP.LS: unsigned `ra <= rb` (R228). -/
def execSkipLs (ra rb : RegNo) (s : State) : Res State := skipPair s ra rb fun x y => condLs x y

/-- SKIP.HI: unsigned `ra > rb` (R229). -/
def execSkipHi (ra rb : RegNo) (s : State) : Res State := skipPair s ra rb fun x y => condLo y x

/-- SKIP.LT: signed `ra < rb` (R230). -/
def execSkipLt (ra rb : RegNo) (s : State) : Res State := skipPair s ra rb fun x y => condLt x y

/-- SKIP.GE: signed `ra >= rb` (R231). -/
def execSkipGe (ra rb : RegNo) (s : State) : Res State := skipPair s ra rb fun x y => !condLt x y

/-- SKIP.LE: signed `ra <= rb` (R232). -/
def execSkipLe (ra rb : RegNo) (s : State) : Res State := skipPair s ra rb fun x y => condLe x y

/-- SKIP.GT: signed `ra > rb` (R233). -/
def execSkipGt (ra rb : RegNo) (s : State) : Res State := skipPair s ra rb fun x y => condLt y x

/-- SKIP.EQ: `ra = rb` (R234). -/
def execSkipEq (ra rb : RegNo) (s : State) : Res State := skipPair s ra rb fun x y => condEq x y

/-- SKIP.NE: `ra ≠ rb` (R235). -/
def execSkipNe (ra rb : RegNo) (s : State) : Res State := skipPair s ra rb fun x y => !condEq x y

/-- SKIP.Z: `ra = 0` (R236). -/
def execSkipZ (ra : RegNo) (s : State) : Res State := skipUnary s ra fun x => condZ x

/-- SKIP.NZ: `ra ≠ 0` (R237). -/
def execSkipNz (ra : RegNo) (s : State) : Res State := skipUnary s ra fun x => !condZ x

/-- SKIP.AWZ: any wyde zero (R238). -/
def execSkipAwz (ra : RegNo) (s : State) : Res State := skipUnary s ra fun x => condAwz x

/-- SKIP.NWZ: no wyde zero (R239). -/
def execSkipNwz (ra : RegNo) (s : State) : Res State := skipUnary s ra fun x => !condAwz x

/-- SKIP.ABZ: any byte zero (R240). -/
def execSkipAbz (ra : RegNo) (s : State) : Res State := skipUnary s ra fun x => condAbz x

/-- SKIP.NBZ: no byte zero (R241). -/
def execSkipNbz (ra : RegNo) (s : State) : Res State := skipUnary s ra fun x => !condAbz x

/-- SKIP.LEZ: signed `ra <= 0` (R242). -/
def execSkipLez (ra : RegNo) (s : State) : Res State := skipUnary s ra fun x => condLez x

/-- SKIP.GTZ: signed `ra > 0` (R243). -/
def execSkipGtz (ra : RegNo) (s : State) : Res State := skipUnary s ra fun x => !condLez x

/-- SKIP.AWM: any wyde minus (R244). -/
def execSkipAwm (ra : RegNo) (s : State) : Res State := skipUnary s ra fun x => condAwm x

/-- SKIP.NWM: no wyde minus (R245). -/
def execSkipNwm (ra : RegNo) (s : State) : Res State := skipUnary s ra fun x => !condAwm x

/-- SKIP.ABM: any byte minus (R246). -/
def execSkipAbm (ra : RegNo) (s : State) : Res State := skipUnary s ra fun x => condAbm x

/-- SKIP.NBM: no byte minus (R247). -/
def execSkipNbm (ra : RegNo) (s : State) : Res State := skipUnary s ra fun x => !condAbm x

/-- SKIP.FS: flag `n` set (R248). -/
def execSkipFs (n : BitVec 4) (s : State) : Res State := skipFlag s n fun b => b

/-- SKIP.FC: flag `n` clear (R249). -/
def execSkipFc (n : BitVec 4) (s : State) : Res State := skipFlag s n fun b => !b

/-- SKIP.MI: bit 31 set (R253). -/
def execSkipMi (ra : RegNo) (s : State) : Res State := skipUnary s ra fun x => condBit x 31#5

/-- SKIP.PL: bit 31 clear (R252). -/
def execSkipPl (ra : RegNo) (s : State) : Res State := skipUnary s ra fun x => !condBit x 31#5

/-- SKIP.BS: bit `b` set (R250). -/
def execSkipBs (ra : RegNo) (b : BitVec 5) (s : State) : Res State := skipUnary s ra fun x => condBit x b

/-- SKIP.BC: bit `b` clear (R251). -/
def execSkipBc (ra : RegNo) (b : BitVec 5) (s : State) : Res State := skipUnary s ra fun x => !condBit x b

/-- SPAM.AND (R258). -/
def execSpamAnd (mask : BitVec 8) (s : State) : Res State := spamSlot s fun test => spamAndVector test mask

/-- SPAM.XORN (R259). -/
def execSpamXorn (trunc : BitVec 3) (mask : BitVec 8) (s : State) : Res State :=
  spamSlot s fun test => spamXornVector test trunc mask

end Sys2Proof.Machine
end

