-- ==== Sys2Proof/Machine/Transfer.lean ====
section
/-! DEFINITION. Control transfer (spec/45_control_transfer.md R270 to R294). A plain mnemonic has DNULL = 1, a `.d` one
DNULL = 0 (R271); a call pushes its return address before its delay slot runs (R274, R275). -/

namespace Sys2Proof.Machine

/-- BRA.D (R277). -/
def execBraD (i9 : BitVec 9) (s : State) : Res State := jumpSlot s false fun t => .next (shortTarget t i9)

/-- BRA (R276). -/
def execBra (i9 : BitVec 9) (s : State) : Res State := jumpSlot s true fun t => .next (shortTarget t i9)

/-- BSR.D (R279). -/
def execBsrD (i9 : BitVec 9) (s : State) : Res State := callSlot s false fun t => .next (shortTarget t i9)

/-- BSR (R278). -/
def execBsr (i9 : BitVec 9) (s : State) : Res State := callSlot s true fun t => .next (shortTarget t i9)

/-- LBRA.D (R281). -/
def execLbraD (i9 : BitVec 9) (s : State) : Res State := jumpSlot s false fun t => .next (longTarget t i9)

/-- LBRA (R280). -/
def execLbra (i9 : BitVec 9) (s : State) : Res State := jumpSlot s true fun t => .next (longTarget t i9)

/-- LBSR.D (R283). -/
def execLbsrD (i9 : BitVec 9) (s : State) : Res State := callSlot s false fun t => .next (longTarget t i9)

/-- LBSR (R282). -/
def execLbsr (i9 : BitVec 9) (s : State) : Res State := callSlot s true fun t => .next (longTarget t i9)

/-- JMP.D (R286). -/
def execJmpD (ra : RegNo) (s : State) : Res State := jumpSlot s false (absoluteTarget ra)

/-- JMP (R285). -/
def execJmp (ra : RegNo) (s : State) : Res State := jumpSlot s true (absoluteTarget ra)

/-- JSR.D (R288). -/
def execJsrD (ra : RegNo) (s : State) : Res State := callSlot s false (absoluteTarget ra)

/-- JSR (R287). -/
def execJsr (ra : RegNo) (s : State) : Res State := callSlot s true (absoluteTarget ra)

/-- RBRA.D (R290). -/
def execRbraD (ra : RegNo) (s : State) : Res State := jumpSlot s false (relativeTarget ra)

/-- RBRA (R289). -/
def execRbra (ra : RegNo) (s : State) : Res State := jumpSlot s true (relativeTarget ra)

/-- RBSR.D (R292). -/
def execRbsrD (ra : RegNo) (s : State) : Res State := callSlot s false (relativeTarget ra)

/-- RBSR (R291). -/
def execRbsr (ra : RegNo) (s : State) : Res State := callSlot s true (relativeTarget ra)

/-- RTS.D: the popped entry is the target (R294). -/
def execRtsD (s : State) : Res State := transferSlot s false rsPop

/-- RTS: the popped entry is the target (R293). -/
def execRts (s : State) : Res State := transferSlot s true rsPop

end Sys2Proof.Machine
end

