-- ==== Sys2Proof/Machine/Undefined.lean ====
section
/-! DEFINITION. The words to which the spec gives no effect (spec/30_encoding.md R110): what each does when it is executed.
A nullified word of any of these rows does nothing (44_skip_spam.md R221). An executed one
stops under its own name wherever it stands (DESIGN CHOICE, log 44). NOTES.md, '## Stops', quotes the rule of each. -/

namespace Sys2Proof.Machine

/-- Register-form OPB with bit 8 = 1: refused (R104, R110). -/
def execUndefRegOpb (_op : BitVec 3) (_b11 : BitVec 1) (_ra _rb : RegNo) (_s : State) : Res State :=
  .refused .registerOpbBit8

/-- LD quad with SIGN = 1: refused (R192). -/
def execUndefLdQuadSign (_m _size : BitVec 1) (_ra _rb : RegNo) (_s : State) : Res State := .refused .ldQuadSigned

/-- LEA with SIZE = 00: refused (R201). -/
def execUndefLeaSize (_m : BitVec 1) (_ra : RegNo) (_off : BitVec 4) (_s : State) : Res State := .refused .leaStackForm

/-- A coprocessor word other than DI and EI: refused (R215). -/
def execUndefCoproc (_x : BitVec 12) (_s : State) : Res State := .refused .coprocessorWord

/-- The reserved SCC: fault (R110). -/
def execUndefScc (_sense : BitVec 1) (_ra : RegNo) (_s : State) : Res State := .fault .undefinedEncoding

/-- SKIP.CPT: refused (R216). -/
def execSkipCpt (_ccc : BitVec 3) (_n : BitVec 4) (_s : State) : Res State := .refused .coprocessorSkip

/-- SKIP.CPF: refused (R216). -/
def execSkipCpf (_ccc : BitVec 3) (_n : BitVec 4) (_s : State) : Res State := .refused .coprocessorSkip

/-- RTI with DNULL = 0: refused (R295, R316). -/
def execRtiD (_s : State) : Res State := .refused .rtiUndefined

/-- RTI: refused; a model must not treat it as RTS (R295, R316). -/
def execRti (_s : State) : Res State := .refused .rtiUndefined

/-- TRAP with DNULL = 0: refused (R296, R312). -/
def execTrapD (tr : BitVec 8) (_s : State) : Res State := .refused (.trapUndefined tr)

/-- TRAP with DNULL = 1: refused (R296, R312). -/
def execTrap (tr : BitVec 8) (_s : State) : Res State := .refused (.trapUndefined tr)

/-- Words 111110x1xxxxxxxx: fault (R110). -/
def execUndefBit10 (_b9 : BitVec 1) (_x : BitVec 8) (_s : State) : Res State := .fault .undefinedEncoding

/-- Format J words without a row: fault (R110). -/
def execUndefJ (_b : BitVec 2) (_sub _ra : BitVec 4) (_s : State) : Res State := .fault .undefinedEncoding

end Sys2Proof.Machine
end

