-- ==== Sys2Proof/Machine/Dispatch.lean ====
section
/-! DEFINITION. The effect of an executed instruction slot: one arm per constructor of `Instr`. -/

namespace Sys2Proof.Machine

def exec (i : Instr) (s : State) : Host.Outcome State Fault Refusal :=
  match i with
  | .nop => Sys2Proof.Machine.execNop s
  | .clr ra => Sys2Proof.Machine.execClr ra s
  | .not ra => Sys2Proof.Machine.execNot ra s
  | .inc ra => Sys2Proof.Machine.execInc ra s
  | .dec ra => Sys2Proof.Machine.execDec ra s
  | .neg ra => Sys2Proof.Machine.execNeg ra s
  | .rolOne ra => Sys2Proof.Machine.execRolOne ra s
  | .lsr ra n => Sys2Proof.Machine.execLsr ra n s
  | .lsl ra n => Sys2Proof.Machine.execLsl ra n s
  | .asr ra n => Sys2Proof.Machine.execAsr ra n s
  | .flip ra n => Sys2Proof.Machine.execFlip ra n s
  | .ror ra n => Sys2Proof.Machine.execRor ra n s
  | .rol ra n => Sys2Proof.Machine.execRol ra n s
  | .extUw ra rb => Sys2Proof.Machine.execExtUw ra rb s
  | .extSw ra rb => Sys2Proof.Machine.execExtSw ra rb s
  | .extUb ra rb => Sys2Proof.Machine.execExtUb ra rb s
  | .extSb ra rb => Sys2Proof.Machine.execExtSb ra rb s
  | .undefRegOpb op b11 ra rb => Sys2Proof.Machine.execUndefRegOpb op b11 ra rb s
  | .mov ra b => Sys2Proof.Machine.execMov ra b s
  | .movNot ra b => Sys2Proof.Machine.execMovNot ra b s
  | .and ra b => Sys2Proof.Machine.execAnd ra b s
  | .andNot ra b => Sys2Proof.Machine.execAndNot ra b s
  | .or ra b => Sys2Proof.Machine.execOr ra b s
  | .orNot ra b => Sys2Proof.Machine.execOrNot ra b s
  | .xor ra b => Sys2Proof.Machine.execXor ra b s
  | .xorNot ra b => Sys2Proof.Machine.execXorNot ra b s
  | .add ra b => Sys2Proof.Machine.execAdd ra b s
  | .addSnc ra b => Sys2Proof.Machine.execAddSnc ra b s
  | .sub ra b => Sys2Proof.Machine.execSub ra b s
  | .subSnb ra b => Sys2Proof.Machine.execSubSnb ra b s
  | .rsub ra b => Sys2Proof.Machine.execRsub ra b s
  | .rsubSnb ra b => Sys2Proof.Machine.execRsubSnb ra b s
  | .ldqRs a => Sys2Proof.Machine.execLdqRs a s
  | .ldqStack ra base off => Sys2Proof.Machine.execLdqStack ra base off s
  | .undefLdQuadSign m z ra rb => Sys2Proof.Machine.execUndefLdQuadSign m z ra rb s
  | .ldq ra mode rb => Sys2Proof.Machine.execLdq ra mode rb s
  | .lduw ra mode rb => Sys2Proof.Machine.execLduw ra mode rb s
  | .ldsw ra mode rb => Sys2Proof.Machine.execLdsw ra mode rb s
  | .ldub ra mode rb => Sys2Proof.Machine.execLdub ra mode rb s
  | .ldsb ra mode rb => Sys2Proof.Machine.execLdsb ra mode rb s
  | .stqRs a => Sys2Proof.Machine.execStqRs a s
  | .stqStack ra base off => Sys2Proof.Machine.execStqStack ra base off s
  | .stq ra mode rb => Sys2Proof.Machine.execStq ra mode rb s
  | .stw ra mode rb => Sys2Proof.Machine.execStw ra mode rb s
  | .stb ra mode rb => Sys2Proof.Machine.execStb ra mode rb s
  | .undefLeaSize m ra off => Sys2Proof.Machine.execUndefLeaSize m ra off s
  | .lea ra mode size rb => Sys2Proof.Machine.execLea ra mode size rb s
  | .ldi ea12 => Sys2Proof.Machine.execLdi ea12 s
  | .imm12 i12 => Sys2Proof.Machine.execImm12 i12 s
  | .di => Sys2Proof.Machine.execDi s
  | .ei => Sys2Proof.Machine.execEi s
  | .undefCoproc x => Sys2Proof.Machine.execUndefCoproc x s
  | .skipA => Sys2Proof.Machine.execSkipA s
  | .skipN => Sys2Proof.Machine.execSkipN s
  | .skipLo ra rb => Sys2Proof.Machine.execSkipLo ra rb s
  | .skipHs ra rb => Sys2Proof.Machine.execSkipHs ra rb s
  | .skipLs ra rb => Sys2Proof.Machine.execSkipLs ra rb s
  | .skipHi ra rb => Sys2Proof.Machine.execSkipHi ra rb s
  | .skipLt ra rb => Sys2Proof.Machine.execSkipLt ra rb s
  | .skipGe ra rb => Sys2Proof.Machine.execSkipGe ra rb s
  | .skipLe ra rb => Sys2Proof.Machine.execSkipLe ra rb s
  | .skipGt ra rb => Sys2Proof.Machine.execSkipGt ra rb s
  | .skipEq ra rb => Sys2Proof.Machine.execSkipEq ra rb s
  | .skipNe ra rb => Sys2Proof.Machine.execSkipNe ra rb s
  | .skipZ ra => Sys2Proof.Machine.execSkipZ ra s
  | .skipNz ra => Sys2Proof.Machine.execSkipNz ra s
  | .skipAwz ra => Sys2Proof.Machine.execSkipAwz ra s
  | .skipNwz ra => Sys2Proof.Machine.execSkipNwz ra s
  | .skipAbz ra => Sys2Proof.Machine.execSkipAbz ra s
  | .skipNbz ra => Sys2Proof.Machine.execSkipNbz ra s
  | .skipLez ra => Sys2Proof.Machine.execSkipLez ra s
  | .skipGtz ra => Sys2Proof.Machine.execSkipGtz ra s
  | .skipAwm ra => Sys2Proof.Machine.execSkipAwm ra s
  | .skipNwm ra => Sys2Proof.Machine.execSkipNwm ra s
  | .skipAbm ra => Sys2Proof.Machine.execSkipAbm ra s
  | .skipNbm ra => Sys2Proof.Machine.execSkipNbm ra s
  | .undefScc sense ra => Sys2Proof.Machine.execUndefScc sense ra s
  | .skipFs n => Sys2Proof.Machine.execSkipFs n s
  | .skipFc n => Sys2Proof.Machine.execSkipFc n s
  | .skipCpt ccc n => Sys2Proof.Machine.execSkipCpt ccc n s
  | .skipCpf ccc n => Sys2Proof.Machine.execSkipCpf ccc n s
  | .skipMi ra => Sys2Proof.Machine.execSkipMi ra s
  | .skipPl ra => Sys2Proof.Machine.execSkipPl ra s
  | .skipBs ra b => Sys2Proof.Machine.execSkipBs ra b s
  | .skipBc ra b => Sys2Proof.Machine.execSkipBc ra b s
  | .braD i9 => Sys2Proof.Machine.execBraD i9 s
  | .bra i9 => Sys2Proof.Machine.execBra i9 s
  | .bsrD i9 => Sys2Proof.Machine.execBsrD i9 s
  | .bsr i9 => Sys2Proof.Machine.execBsr i9 s
  | .lbraD i9 => Sys2Proof.Machine.execLbraD i9 s
  | .lbra i9 => Sys2Proof.Machine.execLbra i9 s
  | .lbsrD i9 => Sys2Proof.Machine.execLbsrD i9 s
  | .lbsr i9 => Sys2Proof.Machine.execLbsr i9 s
  | .spamAnd mask => Sys2Proof.Machine.execSpamAnd mask s
  | .spamXorn trunc mask => Sys2Proof.Machine.execSpamXorn trunc mask s
  | .jmpD ra => Sys2Proof.Machine.execJmpD ra s
  | .jmp ra => Sys2Proof.Machine.execJmp ra s
  | .jsrD ra => Sys2Proof.Machine.execJsrD ra s
  | .jsr ra => Sys2Proof.Machine.execJsr ra s
  | .rbraD ra => Sys2Proof.Machine.execRbraD ra s
  | .rbra ra => Sys2Proof.Machine.execRbra ra s
  | .rbsrD ra => Sys2Proof.Machine.execRbsrD ra s
  | .rbsr ra => Sys2Proof.Machine.execRbsr ra s
  | .rtsD => Sys2Proof.Machine.execRtsD s
  | .rts => Sys2Proof.Machine.execRts s
  | .rtiD => Sys2Proof.Machine.execRtiD s
  | .rti => Sys2Proof.Machine.execRti s
  | .trapD tr => Sys2Proof.Machine.execTrapD tr s
  | .trap tr => Sys2Proof.Machine.execTrap tr s
  | .undefBit10 b9 x => Sys2Proof.Machine.execUndefBit10 b9 x s
  | .undefJ b code ra => Sys2Proof.Machine.execUndefJ b code ra s

end Sys2Proof.Machine
end

