-- ==== Sys2Proof/Machine/Step.lean ====
section
/-! DEFINITION. One step of the machine: one instruction slot (spec/44_skip_spam.md R220). The word is fetched; a nullified
slot does only its bookkeeping (R221); else the instruction is executed, and `exec` does all that an executed slot does. -/

namespace Sys2Proof.Machine

/-- One instruction slot (R220). -/
def step (s : State) : Host.Outcome State Fault Refusal :=
  andThen (fetch s) fun p =>
    if nullified p.1 p.2 then .next (nullifiedSlot p.2) else exec (decodeWord p.1) p.2

/-- MEM_MAP with memory at the two bytes of the wyde at an address, changed only where it is not so already (R62). -/
def mapWithMemory (map : List Region) (addr : Word) : List Region :=
  if accessKind map .wyde addr = some .memory then map
  else { base := addr.toNat, bytes := 2, kind := .memory } :: map

/-- The host's placing of one instruction: `s` with the word `w` of `nbits` bits stored at `pc`, big-endian (R65), as the
platform's memory image holds it (R344, log 32): the two bytes count as loaded, not as written by the program (R74), and
they are memory (R62). Nothing else changes. -/
def State.withFetchWord (s : State) (nbits w : Nat) : State :=
  let word := BitVec.ofNat 16 (w % 2 ^ nbits)
  { s with
    mem := (s.mem.write s.pc.toNat (word.extractLsb' 8 8)).write (s.pc + 1#32).toNat (word.extractLsb' 0 8)
    written := s.written.filter fun a => a != s.pc.toNat && a != (s.pc + 1#32).toNat
    plat := { s.plat with map := mapWithMemory s.plat.map s.pc } }

end Sys2Proof.Machine
end

