-- ==== Sys2Proof/Safety.lean ====
section
/-! DEFINITION. The vocabulary of the claims: the invariant of the machine, the classes of instructions that the spec's
sequencing rules speak of (44_skip_spam.md R224, R262; 45_control_transfer.md R270), what each instruction may write, and
the frames that say what an executed instruction leaves unchanged. -/

namespace Sys2Proof.Machine

/-! ## The invariant -/

/-- What every run keeps. The clauses on `sv`, `skip_kind` and `delay_target` are what the placement restrictions of R224
buy: a pending delay slot or skip test never meets a pending skip vector. -/
structure State.Inv (s : State) : Prop where
  /-- The memory has its canonical form. -/
  memory : s.mem.wf
  /-- So has the record of written addresses (R74). -/
  written : writtenWf s.written
  /-- Instruction addresses are even (R27, R69). -/
  pcEven : s.pc.getLsbD 0 = false
  /-- So is a pending target (R273). -/
  targetEven : ∀ t, s.delayTarget = some t → t.getLsbD 0 = false
  /-- A delay slot is never under a skip vector or a skip test (R224 b, c). -/
  delayAlone : s.delayTarget ≠ none → s.sv = 0#8 ∧ s.skipKind = .none
  /-- A skip test never meets a skip vector (R224 d). -/
  skipAlone : s.skipKind ≠ .none → s.sv = 0#8
  /-- A true skip test comes from a SKIP or a CSKIP (R32). -/
  skipHasKind : s.skipNext = true → s.skipKind ≠ .none
  /-- The return stack has at least the depth the spec asks for (R28). -/
  depth : 16 ≤ s.plat.rsDepth
  /-- The return stack holds no more than its capacity (R28). -/
  stackFits : s.rs.length ≤ s.plat.rsDepth

/-- No pending delay slot and, after this slot's shift, no pending skip-vector bit: a control transfer or a skip-class
instruction may execute (R224 a to d). -/
abbrev State.unhindered (s : State) : Prop := s.delayTarget = none ∧ s.sv <<< 1 = 0#8

/-- The word at `pc` is in memory and may be fetched (R65, R69, R74). -/
abbrev State.fetchable (s : State) : Prop :=
  s.pc.getLsbD 0 = false ∧ s.pc.toNat ∉ s.written ∧ (s.pc + 1#32).toNat ∉ s.written ∧
    kindAt s.plat.map s.pc.toNat = some .memory ∧ kindAt s.plat.map (s.pc + 1#32).toNat = some .memory

/-- The word at `pc` (R65). -/
def State.wordAtPc (s : State) : Wyde := wydeOfBytes (s.mem.byteAt s.pc 0) (s.mem.byteAt s.pc 1)

/-- The end of a run: a step that changes nothing (60_exceptions.md R327). -/
def State.ended (s : State) : Prop := step s = .next s

/-! ## Classes of instructions -/

/-- How an executed instruction takes part in the sequencing (R262, R270). -/
inductive SlotClass where
  /-- Makes no skip test and transfers no control. -/
  | plain
  /-- Makes a skip test: SKIP.cc, ADD.SNC, SUB.SNB, RSUB.SNB (R262). -/
  | skip
  /-- Consumes a skip test (R257). -/
  | spam
  /-- Changes the flow of control (R270). -/
  | transfer
  /-- Has no effect in the spec: the model stops on every path. -/
  | stop
  deriving DecidableEq, Repr

/-- The class of an instruction. -/
def classOf : Instr → SlotClass
  | .nop | .clr .. | .not .. | .inc .. | .dec .. | .neg .. | .rolOne .. => .plain
  | .lsr .. | .lsl .. | .asr .. | .flip .. | .ror .. | .rol .. => .plain
  | .extUw .. | .extSw .. | .extUb .. | .extSb .. => .plain
  | .mov .. | .movNot .. | .and .. | .andNot .. | .or .. | .orNot .. | .xor .. | .xorNot .. => .plain
  | .add .. | .sub .. | .rsub .. => .plain
  | .ldqRs .. | .ldqStack .. | .ldq .. | .lduw .. | .ldsw .. | .ldub .. | .ldsb .. => .plain
  | .stqRs .. | .stqStack .. | .stq .. | .stw .. | .stb .. => .plain
  | .lea .. | .ldi .. | .imm12 .. | .di | .ei => .plain
  | .addSnc .. | .subSnb .. | .rsubSnb .. => .skip
  | .skipA | .skipN | .skipLo .. | .skipHs .. | .skipLs .. | .skipHi .. | .skipLt .. | .skipGe .. => .skip
  | .skipLe .. | .skipGt .. | .skipEq .. | .skipNe .. | .skipZ .. | .skipNz .. | .skipAwz .. => .skip
  | .skipNwz .. | .skipAbz .. | .skipNbz .. | .skipLez .. | .skipGtz .. | .skipAwm .. | .skipNwm .. => .skip
  | .skipAbm .. | .skipNbm .. | .skipFs .. | .skipFc .. | .skipMi .. | .skipPl .. | .skipBs .. | .skipBc .. => .skip
  | .spamAnd .. | .spamXorn .. => .spam
  | .braD .. | .bra .. | .bsrD .. | .bsr .. | .lbraD .. | .lbra .. | .lbsrD .. | .lbsr .. => .transfer
  | .jmpD .. | .jmp .. | .jsrD .. | .jsr .. | .rbraD .. | .rbra .. | .rbsrD .. | .rbsr .. => .transfer
  | .rtsD | .rts => .transfer
  | .undefRegOpb .. | .undefLdQuadSign .. | .undefLeaSize .. | .undefCoproc .. | .undefScc .. => .stop
  | .skipCpt .. | .skipCpf .. | .rtiD | .rti | .trapD .. | .trap .. | .undefBit10 .. | .undefJ .. => .stop

/-! ## What an instruction may write -/

/-- The destination register; LDI and IMM12 write r14 (R23). -/
def destOf : Instr → Option RegNo
  | .clr ra | .not ra | .inc ra | .dec ra | .neg ra | .rolOne ra => some ra
  | .lsr ra _ | .lsl ra _ | .asr ra _ | .flip ra _ | .ror ra _ | .rol ra _ => some ra
  | .extUw ra _ | .extSw ra _ | .extUb ra _ | .extSb ra _ => some ra
  | .mov ra _ | .movNot ra _ | .and ra _ | .andNot ra _ | .or ra _ | .orNot ra _ | .xor ra _ | .xorNot ra _ => some ra
  | .add ra _ | .addSnc ra _ | .sub ra _ | .subSnb ra _ | .rsub ra _ | .rsubSnb ra _ => some ra
  | .ldqStack ra _ _ | .ldq ra _ _ | .lduw ra _ _ | .ldsw ra _ _ | .ldub ra _ _ | .ldsb ra _ _ => some ra
  | .lea ra _ _ _ => some ra
  | .ldi _ | .imm12 _ => some 14#4
  -- `mov r0,r0` (R142)
  | .nop => some 0#4
  | .ldqRs _ | .stqRs _ | .stqStack _ _ _ | .stq _ _ _ | .stw _ _ _ | .stb _ _ _ | .di | .ei => none
  | .skipA | .skipN | .skipLo .. | .skipHs .. | .skipLs .. | .skipHi .. | .skipLt .. | .skipGe .. => none
  | .skipLe .. | .skipGt .. | .skipEq .. | .skipNe .. | .skipZ .. | .skipNz .. | .skipAwz .. => none
  | .skipNwz .. | .skipAbz .. | .skipNbz .. | .skipLez .. | .skipGtz .. | .skipAwm .. | .skipNwm .. => none
  | .skipAbm .. | .skipNbm .. | .skipFs .. | .skipFc .. | .skipMi .. | .skipPl .. | .skipBs .. | .skipBc .. => none
  | .spamAnd .. | .spamXorn .. => none
  | .braD .. | .bra .. | .bsrD .. | .bsr .. | .lbraD .. | .lbra .. | .lbsrD .. | .lbsr .. => none
  | .jmpD .. | .jmp .. | .jsrD .. | .jsr .. | .rbraD .. | .rbra .. | .rbsrD .. | .rbsr .. => none
  | .rtsD | .rts => none
  | .undefRegOpb .. | .undefLdQuadSign .. | .undefLeaSize .. | .undefCoproc .. | .undefScc .. => none
  | .skipCpt .. | .skipCpf .. | .rtiD | .rti | .trapD .. | .trap .. | .undefBit10 .. | .undefJ .. => none

/-- The operand an instruction stores: its size and address, by the address functions the meanings use. -/
def storeOf (s : State) : Instr → Option (Size × Word)
  | .stqRs a => some (.quad, quadAddr s a)
  | .stqStack _ base off => some (.quad, stackAddr s base off)
  | .stq _ mode rb => some (.quad, effAddr s mode rb)
  | .stw _ mode rb => some (.wyde, effAddr s mode rb)
  | .stb _ mode rb => some (.byte, effAddr s mode rb)
  | _ => none

/-- The operand an instruction loads: its size and address, by the address functions the meanings use. -/
def loadOf (s : State) : Instr → Option (Size × Word)
  | .ldqRs a => some (.quad, quadAddr s a)
  | .ldqStack _ base off => some (.quad, stackAddr s base off)
  | .ldq _ mode rb => some (.quad, effAddr s mode rb)
  | .lduw _ mode rb | .ldsw _ mode rb => some (.wyde, effAddr s mode rb)
  | .ldub _ mode rb | .ldsb _ mode rb => some (.byte, effAddr s mode rb)
  | .ldi ea12 => some (.quad, ldiAddr s ea12)
  | _ => none

/-- The address lies outside the operand of a size at an address. -/
def outsideOperand (n : Size) (addr : Word) (a : Nat) : Prop := a < addr.toNat ∨ addr.toNat + n.bytes ≤ a

/-- The instruction pushes the return stack: the calls, and LD with RA = 15 (R28). -/
def pushesStack : Instr → Bool
  | .bsrD _ | .bsr _ | .lbsrD _ | .lbsr _ | .jsrD _ | .jsr _ | .rbsrD _ | .rbsr _ | .ldqRs _ => true
  | .ldqStack ra _ _ | .ldq ra _ _ => ra == 15#4
  | _ => false

/-- The instruction pops the return stack: RTS, and ST with RA = 15 (R28). -/
def popsStack : Instr → Bool
  | .rtsD | .rts | .stqRs _ => true
  | .stqStack ra _ _ | .stq ra _ _ => ra == 15#4
  | _ => false

/-- The instruction makes a data access: LD, ST, LDI (20_memory.md R70). -/
def accessesData : Instr → Bool
  | .ldqRs _ | .ldqStack .. | .ldq .. | .lduw .. | .ldsw .. | .ldub .. | .ldsb .. | .ldi _ => true
  | .stqRs _ | .stqStack .. | .stq .. | .stw .. | .stb .. => true
  | _ => false

/-- The instruction names r15 in a position where the spec gives it no meaning (10_state.md R25). -/
def namesR15 : Instr → Bool
  | .clr ra | .not ra | .inc ra | .dec ra | .neg ra | .rolOne ra => ra == 15#4
  | .lsr ra _ | .lsl ra _ | .asr ra _ | .flip ra _ | .ror ra _ | .rol ra _ => ra == 15#4
  | .extUw ra rb | .extSw ra rb | .extUb ra rb | .extSb ra rb => ra == 15#4 || rb == 15#4
  | .mov ra b | .movNot ra b | .and ra b | .andNot ra b | .or ra b | .orNot ra b => ra == 15#4 || b == .reg 15#4
  | .xor ra b | .xorNot ra b | .add ra b | .addSnc ra b | .sub ra b | .subSnb ra b => ra == 15#4 || b == .reg 15#4
  | .rsub ra b | .rsubSnb ra b => ra == 15#4 || b == .reg 15#4
  | .lduw ra _ _ | .ldsw ra _ _ | .ldub ra _ _ | .ldsb ra _ _ | .stw ra _ _ | .stb ra _ _ => ra == 15#4
  | .lea ra _ _ _ => ra == 15#4
  | .skipLo ra rb | .skipHs ra rb | .skipLs ra rb | .skipHi ra rb | .skipLt ra rb => ra == 15#4 || rb == 15#4
  | .skipGe ra rb | .skipLe ra rb | .skipGt ra rb | .skipEq ra rb | .skipNe ra rb => ra == 15#4 || rb == 15#4
  | .skipZ ra | .skipNz ra | .skipAwz ra | .skipNwz ra | .skipAbz ra | .skipNbz ra => ra == 15#4
  | .skipLez ra | .skipGtz ra | .skipAwm ra | .skipNwm ra | .skipAbm ra | .skipNbm ra => ra == 15#4
  | .skipMi ra | .skipPl ra | .skipBs ra _ | .skipBc ra _ => ra == 15#4
  | .jmpD ra | .jmp ra | .jsrD ra | .jsr ra | .rbraD ra | .rbra ra | .rbsrD ra | .rbsr ra => ra == 15#4
  | _ => false

/-! ## Frames -/

/-- Every register but one is unchanged. -/
def regsExcept (s t : State) (ra : RegNo) : Prop := ∀ r, r ≠ ra → t.reg? r = s.reg? r

/-- Every register is unchanged. -/
def regsSame (s t : State) : Prop := ∀ r, t.reg? r = s.reg? r

/-- Every byte of memory is unchanged, and none more counts as written. -/
def memSame (s t : State) : Prop := (∀ a, t.mem.read a = s.mem.read a) ∧ t.written = s.written

/-- Every byte of memory outside an operand is unchanged. -/
def memExcept (s t : State) (n : Size) (addr : Word) : Prop :=
  ∀ a, outsideOperand n addr a → t.mem.read a = s.mem.read a

/-- The return stack is unchanged. -/
def stackSame (s t : State) : Prop := t.rs = s.rs

/-- IE, SR and the launch parameters are unchanged. -/
def systemSame (s t : State) : Prop := t.ie = s.ie ∧ t.sr = s.sr ∧ t.plat = s.plat

/-- No flag is sampled. -/
def flagsSame (s t : State) : Prop := t.flagIn = s.flagIn ∧ t.flagCount = s.flagCount

/-- No device is accessed. -/
def devicesSame (s t : State) : Prop := t.devIn = s.devIn ∧ t.devCount = s.devCount ∧ t.devLog = s.devLog

/-- Nothing but registers, `pc` and the sequencing state differs. -/
def restSame (s t : State) : Prop :=
  memSame s t ∧ stackSame s t ∧ systemSame s t ∧ flagsSame s t ∧ devicesSame s t

/-- The sequencing state after an executed instruction that makes no skip test and transfers no control (R220). -/
def seqPlain (s t : State) : Prop :=
  t.skipNext = false ∧ t.skipKind = .none ∧ t.sv = s.sv <<< 1 ∧ t.delayTarget = none ∧ t.pc = s.nextPc

/-- The sequencing state after an executed instruction that makes a skip test: the test has its kind, nothing else is
pending, and the next slot is the next instruction (R220, R225). -/
def seqSkip (s t : State) : Prop :=
  t.skipKind ≠ .none ∧ t.sv = 0#8 ∧ t.delayTarget = none ∧ t.pc = s.pc + 2#32

/-- The sequencing state after an executed SPAM, but for the vector it loads (R220, R257). -/
def seqSpam (s t : State) : Prop :=
  t.skipNext = false ∧ t.skipKind = .none ∧ t.delayTarget = none ∧ t.pc = s.pc + 2#32

/-- The sequencing state after an executed control transfer, but for where it goes (R220). -/
def seqTransfer (t : State) : Prop := t.skipNext = false ∧ t.skipKind = .none ∧ t.sv = 0#8

/-- Control goes to a target: at once (DNULL = 1), or after the delay slot at `pc + 2` (DNULL = 0) (R271). -/
def goesTo (s t : State) (dnull : Bool) (target : Word) : Prop :=
  if dnull then t.delayTarget = none ∧ t.pc = target else t.delayTarget = some target ∧ t.pc = s.pc + 2#32

/-- Every byte of the operand of a size at an address lies in memory (R62). -/
def inMemory (s : State) (n : Size) (addr : Word) : Prop :=
  ∀ i, i < n.bytes → kindAt s.plat.map (addr.toNat + i) = some .memory

/-- One byte at least of the operand lies where there is nothing (R62). -/
def touchesNothing (s : State) (n : Size) (addr : Word) : Prop :=
  ∃ i, i < n.bytes ∧ kindAt s.plat.map (addr.toNat + i) = none

/-- Every byte of the operand has something, and one at least is a device's (R62, R71). -/
def meetsDevice (s : State) (n : Size) (addr : Word) : Prop :=
  ¬ touchesNothing s n addr ∧ ∃ i, i < n.bytes ∧ kindAt s.plat.map (addr.toNat + i) = some .device

/-- The operand of a size may be accessed at an address (R62, R67). -/
def accessible (s : State) (n : Size) (addr : Word) : Prop := aligned n addr = true ∧ ¬ touchesNothing s n addr

/-- `v` is what a read that meets a device gives: the operand, zero-extended, whose bytes at device addresses are those of
the next answer's low bits (decision D24, log 10) and whose other bytes are the memory's (log 43). -/
def answersRead (s : State) (n : Size) (addr v : Word) : Prop :=
  n.trunc v = v ∧ ∀ i, i < n.bytes → operandByte n v i =
    if kindAt s.plat.map (addr.toNat + i) = some .device then operandByte n (nextDraw s) i
    else s.mem.read (addr.toNat + i)

/-- Between `s` and `t` the operand `v` was read: from memory, with no device accessed (R66), or with a device, whose one
answer was taken (R71, R325, decision D24, log 10) and the read recorded (log 11). -/
def readsOperand (s t : State) (n : Size) (addr v : Word) : Prop :=
  (inMemory s n addr ∧ v = s.mem.readOperand n addr ∧ devicesSame s t) ∨
    (meetsDevice s n addr ∧ answersRead s n addr v ∧
      t.devIn = s.devIn.tail ∧ t.devCount = s.devCount + 1 ∧ t.devLog = s.devLog ++ [.read addr n v])

/-- Between `s` and `t` the low bits of `v` were written as an operand: to memory, every other byte as before and no device
accessed (R66), or with a device, the operand's bytes in memory stored there, every other byte as before (log 43), and the
write recorded as one output event (R71, R325, log 11). Either way the operand's addresses, and no others, have become
written ones: those in memory by R74, those of a device by log 17. -/
def writesOperand (s t : State) (n : Size) (addr v : Word) : Prop :=
  (∀ a, a ∈ t.written ↔ a ∈ s.written ∨ ¬ outsideOperand n addr a) ∧
    t.devIn = s.devIn ∧ t.devCount = s.devCount ∧ memExcept s t n addr ∧
    ((inMemory s n addr ∧ t.mem.readOperand n addr = n.trunc v ∧ t.devLog = s.devLog) ∨
      (meetsDevice s n addr ∧
        (∀ i, i < n.bytes → t.mem.read (addr.toNat + i) =
          if kindAt s.plat.map (addr.toNat + i) = some .memory then operandByte n v i
          else s.mem.read (addr.toNat + i)) ∧
        t.devLog = s.devLog ++ [.write addr n (n.trunc v)]))

/-! ## What it means that an instruction completes -/

/-- Executing `i` completes, writes `v` to `ra`, and leaves everything else but `pc` and the sequencing state unchanged. -/
def writesReg (i : Instr) (s : State) (ra : RegNo) (v : Word) : Prop :=
  ∃ t, exec i s = .next t ∧ t.reg? ra = some v ∧ regsExcept s t ra ∧ restSame s t

/-- Executing `i` completes, writes `v` to `ra`, hands the skip test `test` of kind CSKIP to the next slot, and leaves
everything else but `pc` and the rest of the sequencing state unchanged. -/
def writesRegAndTests (i : Instr) (s : State) (ra : RegNo) (v : Word) (test : Bool) : Prop :=
  ∃ t, exec i s = .next t ∧ t.reg? ra = some v ∧ t.skipNext = test ∧ t.skipKind = .cskip ∧
    regsExcept s t ra ∧ restSame s t

/-- Executing `i` completes, hands the skip test `test` of kind SKIP to the next slot, and leaves everything else but `pc`
and the rest of the sequencing state unchanged. -/
def makesTest (i : Instr) (s : State) (test : Bool) : Prop :=
  ∃ t, exec i s = .next t ∧ t.skipNext = test ∧ t.skipKind = .skip ∧ regsSame s t ∧ restSame s t

/-- Executing `i` completes with control going to `target`, and leaves everything but the sequencing state unchanged. -/
def transfers (i : Instr) (s : State) (dnull : Bool) (target : Word) : Prop :=
  ∃ t, exec i s = .next t ∧ goesTo s t dnull target ∧ regsSame s t ∧ restSame s t

/-- Executing `i` completes with control going to `target` and leaves the return stack `rs`, everything else but the
sequencing state unchanged. -/
def transfersWithStack (i : Instr) (s : State) (dnull : Bool) (target : Word) (rs : List Word) : Prop :=
  ∃ t, exec i s = .next t ∧ goesTo s t dnull target ∧ t.rs = rs ∧ regsSame s t ∧
    memSame s t ∧ systemSame s t ∧ flagsSame s t ∧ devicesSame s t

/-- Executing `i` completes with one read of an operand at `addr` and writes what `ext` makes of it to `ra`; everything
else but `pc` and the sequencing state is unchanged. -/
def loadsReg (i : Instr) (s : State) (n : Size) (addr : Word) (ext : Word → Word) (ra : RegNo) : Prop :=
  ∃ t v, exec i s = .next t ∧ readsOperand s t n addr v ∧ t.reg? ra = some (ext v) ∧ regsExcept s t ra ∧
    memSame s t ∧ stackSame s t ∧ systemSame s t ∧ flagsSame s t

/-- Executing `i` completes with one write of the low bits of `v` at `addr` and leaves the return stack `rs`; everything
else but `pc` and the sequencing state is unchanged. -/
def storesOperand (i : Instr) (s : State) (n : Size) (addr v : Word) (rs : List Word) : Prop :=
  ∃ t, exec i s = .next t ∧ writesOperand s t n addr v ∧ regsSame s t ∧ t.rs = rs ∧ systemSame s t ∧ flagsSame s t

/-! ## Operands as the spec writes them -/

/-- Operand B has the value `y` in `s` (30_encoding.md R104). -/
def opbIs (s : State) (b : Opb) (y : Word) : Prop :=
  match b with
  | .reg rb => s.reg? rb = some y
  | .simm v => y = v.signExtend 32
  | .pow2 n => y = 1#32 <<< n.toNat
  | .mask n => y = (1#32 <<< n.toNat) - 1#32

/-- The OPB_CTL and OPB fields `tt` and `bbbbb` of operand B (R104, R109). -/
def opbField (b : Opb) : BitVec 2 × BitVec 5 :=
  match b with
  | .reg rb => (0b00#2, 0#1 ++ rb)
  | .simm v => (0b01#2, v)
  | .pow2 n => (0b10#2, n)
  | .mask n => (0b11#2, n)

/-- A word of formats L and A: `ooooottbbbbbaaaa` (R109). -/
def wordOfAlu (op : BitVec 5) (b : Opb) (ra : RegNo) : Wyde := op ++ ((opbField b).1 ++ ((opbField b).2 ++ ra))

/-- The bytes at `pc` are those of the instruction, as the decoder reads them (R65, R90). -/
def State.holdsAtPc (s : State) (i : Instr) : Prop :=
  decodeBytes [s.mem.byteAt s.pc 0, s.mem.byteAt s.pc 1] = .ok (i, [])

/-- The target of a short branch: `pc` plus twice the signed offset (R105, R276). -/
def shortBranch (s : State) (i9 : BitVec 9) : Word := s.pc + BitVec.ofInt 32 (2 * i9.toInt)

/-- The target of a long branch where imm holds `x` (R105, R280). -/
def longBranch (s : State) (x : Word) (i9 : BitVec 9) : Word := s.pc + (x <<< 10) + (i9.setWidth 32 <<< 1)

end Sys2Proof.Machine
end

