-- ==== Sys2Proof/Certificates/Slice0/Obligations.lean ====
section
/-! DEFINITION. The statements for the provers. Each docstring names the rules of spec/ that the statement formalises; a
clause that rests on a decision of the spec (92_eei_decisions.md) or on a choice of the model names it. The words
`writesReg`, `makesTest`, `transfers`, `loadsReg`, `storesOperand` and the like (Safety.lean) say that `exec` answers a next
state, which one, and that everything not named is unchanged. -/

open Sys2Proof Sys2Proof.Machine

/-! ## Encoding -/

/-- R109, R110, R113: every instruction with every operand its row of the opcode table admits is decoded from its own word. -/
def Obligations.DecodeOfEncode : Prop := ∀ i : Instr, i.wellFormed = true → decodeWord (encode i) = i

/-- R90, R109, R110 ("Every one of the 65536 words is either in the list of rule R109 or in this table"): every word decodes
to an instruction that its row of the opcode table admits, and no bit of the word is lost. -/
def Obligations.EncodeOfDecode : Prop := ∀ w : Wyde, (decodeWord w).wellFormed = true ∧ encode (decodeWord w) = w

/-- R92 to R103: words that spec/95_test_vectors.md prints decode to the instructions it prints beside them. -/
def Obligations.ListedWordsDecode : Prop :=
  decodeWord 0x00ED#16 = .mov 13#4 (.reg 14#4) ∧ decodeWord 0x0441#16 = .mov 1#4 (.pow2 4#5) ∧
  decodeWord 0x1301#16 = .and 1#4 (.simm 0b10000#5) ∧ decodeWord 0x16DD#16 = .and 13#4 (.mask 13#5) ∧
  decodeWord 0x645E#16 = .rsub 14#4 (.pow2 5#5) ∧ decodeWord 0x5A1D#16 = .subSnb 13#4 (.simm 1#5) ∧
  decodeWord 0x7A11#16 = .rolOne 1#4 ∧ decodeWord 0x7781#16 = .flip 1#4 0b11000#5 ∧
  decodeWord 0x7C32#16 = .extUw 2#4 3#4 ∧ decodeWord 0x86EB#16 = .ldub 11#4 .plain 14#4 ∧
  decodeWord 0x88C0#16 = .ldqStack 0#4 .sp 12#4 ∧ decodeWord 0x9290#16 = .stq 0#4 .plain 9#4 ∧
  decodeWord 0xB0FB#16 = .imm12 0x0FB#12 ∧ decodeWord 0xC704#16 = .di ∧ decodeWord 0xDCB0#16 = .skipNe 0#4 11#4 ∧
  decodeWord 0xD57F#16 = .skipFs 15#4 ∧ decodeWord 0xD640#16 = .skipBs 0#4 4#5 ∧ decodeWord 0xE3F4#16 = .bra 0x1F4#9 ∧
  decodeWord 0xE1FE#16 = .braD 0x1FE#9 ∧ decodeWord 0xF3AA#16 = .spamXorn 3#3 0xAA#8 ∧
  decodeWord 0xFE0B#16 = .jsr 11#4 ∧ decodeWord 0xFA20#16 = .rts

/-! ## Reset and the invariant -/

/-- R340, R341, R44 by decision D13: `pc`, the return stack, the sequencing state. The rest is the model's choice: r0 to r14
hold 0 (log 1), memory lists nothing (log 2) and is everywhere (log 3), RS_DEPTH (log 4), FULL_SHIFTER (log 5),
RS_MANUAL_ACCESS (log 6), IE (log 7), SR (log 8). -/
def Obligations.ResetState : Prop :=
  State.reset.pc = 0x00000000#32 ∧ State.reset.rs = [] ∧ State.reset.skipNext = false ∧ State.reset.skipKind = .none ∧
  State.reset.sv = 0x00#8 ∧ State.reset.delayTarget = none ∧
  (∀ r : RegNo, r ≠ 15#4 → State.reset.reg? r = some 0x00000000#32) ∧ State.reset.mem = [] ∧ State.reset.written = [] ∧
  (∀ a : Word, kindAt State.reset.plat.map a.toNat = some .memory) ∧ State.reset.plat.rsDepth = 16 ∧
  State.reset.plat.fullShifter = true ∧ State.reset.plat.rsManualAccess = true ∧ State.reset.ie = false ∧
  State.reset.sr = 0 ∧ State.reset.devLog = []

/-- The invariant holds at reset. -/
def Obligations.InvAtReset : Prop := State.reset.Inv

/-- R27, R28, R32, R66, R69, R74, R224, R273: from every state in which the invariant holds (reached by a run or not), a step
that answers a next state gives one in which it holds. -/
def Obligations.InvKeptByStep : Prop := ∀ s t : State, s.Inv → step s = .next t → t.Inv

/-! ## One instruction slot -/

/-- R220: where the word at `pc` can be fetched from memory and decodes to `i`, the step is `exec i`, unless the slot is
nullified by its bit of `sv`, or by the skip test of the slot before when `i` is no SPAM. What `exec` adds to the
instruction's effect (the next `pc`, the sequencing state) is in SequencingByClass. -/
def Obligations.StepRunsDecodedInstruction : Prop :=
  ∀ (s : State) (i : Instr), s.fetchable → s.holdsAtPc i → s.sv.getLsbD 7 = false →
    (s.skipNext = false ∨ classOf i = .spam) → step s = exec i s

/-- R221 (decision D25), R220, R223: a nullified slot does nothing but its bookkeeping, whatever its word is. -/
def Obligations.NullifiedSlotDoesNothing : Prop :=
  ∀ (s : State) (i : Instr), s.fetchable → s.holdsAtPc i →
    (s.sv.getLsbD 7 = true ∨ (s.skipNext = true ∧ classOf i ≠ .spam)) →
    ∃ t, step s = .next t ∧ regsSame s t ∧ restSame s t ∧ seqPlain s t

/-- R69 (D9), R74 (D11), R62 (D12): an odd `pc`, a written byte at `pc` or nothing at a byte of the word at `pc` stops the
step by name. That a written byte is named where a byte has nothing there as well is the model's choice (log 44). The last
clause is the model's choice: where a device answers the fetch (log 38), its answer is the word (the low bits of the draw,
D24 and log 10; byte by byte where the other byte is memory, log 43) and the read is recorded (log 11). -/
def Obligations.FetchStops : Prop :=
  ∀ s : State,
    (s.pc.getLsbD 0 = true → step s = .fault .oddPc) ∧
    (s.pc.getLsbD 0 = false → s.pc.toNat ∈ s.written ∨ (s.pc + 1#32).toNat ∈ s.written →
      step s = .fault (.fetchOfWritten s.pc)) ∧
    (s.pc.getLsbD 0 = false → s.pc.toNat ∉ s.written → (s.pc + 1#32).toNat ∉ s.written →
      (touchesNothing s .wyde s.pc → step s = .fault (.unmapped s.pc)) ∧
      (meetsDevice s .wyde s.pc → s.sv.getLsbD 7 = false → s.skipNext = false →
        ∃ v, answersRead s .wyde s.pc v ∧
          step s = exec (decodeWord (v.setWidth 16)) (s.tookDevice.logDevice (.read s.pc .wyde v))))

/-- Log 32 (R344: the platform supplies the memory image): a word placed where the next fetch is runs as its instruction. -/
def Obligations.PlacedWordRuns : Prop :=
  ∀ (s : State) (i : Instr), i.wellFormed = true → s.pc.getLsbD 0 = false → s.sv.getLsbD 7 = false → s.skipNext = false →
    step (s.withFetchWord 16 (encode i).toNat) = exec i (s.withFetchWord 16 (encode i).toNat) ∧
      regsSame s (s.withFetchWord 16 (encode i).toNat) ∧ (s.withFetchWord 16 (encode i).toNat).pc = s.pc

/-- R220, R27, R222, R223, R271, R32: what each class of executed instruction leaves in the sequencing state, and where the
next slot is. -/
def Obligations.SequencingByClass : Prop :=
  ∀ (i : Instr) (s t : State), exec i s = .next t →
    match classOf i with
    | .plain => seqPlain s t
    | .skip => seqSkip s t
    | .spam => seqSpam s t
    | .transfer => seqTransfer t
    | .stop => False

/-! ## Logical and move group -/

/-- R132 to R137, R139: the word, and the one register written. -/
def Obligations.LogicalGroupResults : Prop :=
  ∀ (s : State) (ra : RegNo) (b : Opb) (x y : Word),
    (encode (.mov ra b) = wordOfAlu 0b00000#5 b ra ∧ encode (.movNot ra b) = wordOfAlu 0b00001#5 b ra ∧
      encode (.and ra b) = wordOfAlu 0b00010#5 b ra ∧ encode (.andNot ra b) = wordOfAlu 0b00011#5 b ra ∧
      encode (.or ra b) = wordOfAlu 0b00100#5 b ra ∧ encode (.orNot ra b) = wordOfAlu 0b00101#5 b ra ∧
      encode (.xorNot ra b) = wordOfAlu 0b00111#5 b ra) ∧
    (opbIs s b y → ra ≠ 15#4 → writesReg (.mov ra b) s ra y ∧ writesReg (.movNot ra b) s ra (~~~y)) ∧
    (opbIs s b y → s.reg? ra = some x →
      writesReg (.and ra b) s ra (x &&& y) ∧ writesReg (.andNot ra b) s ra (x &&& ~~~y) ∧
      writesReg (.or ra b) s ra (x ||| y) ∧ writesReg (.orNot ra b) s ra (x ||| ~~~y) ∧
      writesReg (.xorNot ra b) s ra (~~~(x ^^^ y)))

/-- R138, R142: XOR, and NOP, which is `mov r0,r0` and changes nothing. Both rules add that a read of a register never
written faults (D13); in the model every register holds a value (log 1). -/
def Obligations.XorResultAndNop : Prop :=
  (∀ (s : State) (ra : RegNo) (b : Opb) (x y : Word), encode (.xor ra b) = wordOfAlu 0b00110#5 b ra ∧
    (opbIs s b y → s.reg? ra = some x → writesReg (.xor ra b) s ra (x ^^^ y))) ∧
  (encode .nop = 0x0000#16 ∧ wordOfAlu 0b00000#5 (.reg 0#4) 0#4 = 0x0000#16 ∧
    ∀ s : State, ∃ t, exec .nop s = .next t ∧ regsSame s t ∧ restSame s t)

/-- R140, R141, R158, R159, R160: the pseudo-instructions' words and effects. -/
def Obligations.PseudoOperationResults : Prop :=
  ∀ (s : State) (ra : RegNo) (x : Word),
    (encode (.clr ra) = 0b000000100000#12 ++ ra ∧ encode (.clr ra) = wordOfAlu 0b00000#5 (.simm 0#5) ra ∧
      encode (.not ra) = 0b001100111111#12 ++ ra ∧ encode (.not ra) = wordOfAlu 0b00110#5 (.simm 31#5) ra ∧
      encode (.inc ra) = 0b010000100001#12 ++ ra ∧ encode (.inc ra) = wordOfAlu 0b01000#5 (.simm 1#5) ra ∧
      encode (.dec ra) = 0b010100100001#12 ++ ra ∧ encode (.dec ra) = wordOfAlu 0b01010#5 (.simm 1#5) ra ∧
      encode (.neg ra) = 0b011000100000#12 ++ ra ∧ encode (.neg ra) = wordOfAlu 0b01100#5 (.simm 0#5) ra) ∧
    (ra ≠ 15#4 → writesReg (.clr ra) s ra 0x00000000#32) ∧
    (s.reg? ra = some x →
      writesReg (.not ra) s ra (~~~x) ∧ writesReg (.inc ra) s ra (x + 1#32) ∧ writesReg (.dec ra) s ra (x - 1#32) ∧
      writesReg (.neg ra) s ra (0#32 - x))

/-! ## Arithmetic group -/

/-- R150, R152, R154. -/
def Obligations.AddSubRsubResults : Prop :=
  ∀ (s : State) (ra : RegNo) (b : Opb) (x y : Word),
    (encode (.add ra b) = wordOfAlu 0b01000#5 b ra ∧ encode (.sub ra b) = wordOfAlu 0b01010#5 b ra ∧
      encode (.rsub ra b) = wordOfAlu 0b01100#5 b ra) ∧
    (opbIs s b y → s.reg? ra = some x →
      writesReg (.add ra b) s ra (x + y) ∧ writesReg (.sub ra b) s ra (x - y) ∧ writesReg (.rsub ra b) s ra (y - x))

/-- R151: the 33-bit sum gives the result and the skip test. The placement hypothesis is R224's, which R151 names. -/
def Obligations.AddSncResultAndTest : Prop :=
  ∀ (s : State) (ra : RegNo) (b : Opb) (x y : Word), encode (.addSnc ra b) = wordOfAlu 0b01001#5 b ra ∧
    (opbIs s b y → s.reg? ra = some x → s.unhindered →
      writesRegAndTests (.addSnc ra b) s ra ((x.setWidth 33 + y.setWidth 33).setWidth 32)
        ((x.setWidth 33 + y.setWidth 33).getLsbD 32 == false))

/-- R153, R155 by decision D6: the next instruction is skipped where the minuend is not the smaller. -/
def Obligations.SubSnbRsubSnbResultAndTest : Prop :=
  ∀ (s : State) (ra : RegNo) (b : Opb) (x y : Word),
    (encode (.subSnb ra b) = wordOfAlu 0b01011#5 b ra ∧ encode (.rsubSnb ra b) = wordOfAlu 0b01101#5 b ra) ∧
    (opbIs s b y → s.reg? ra = some x → s.unhindered →
      writesRegAndTests (.subSnb ra b) s ra (x - y) (decide (y.toNat ≤ x.toNat)) ∧
      writesRegAndTests (.rsubSnb ra b) s ra (y - x) (decide (x.toNat ≤ y.toNat)))

/-- R157 (decision D6): carry and borrow as unsigned facts, and "the borrow is the complement of the carry out of
`minuend + ~subtrahend + 1`". -/
def Obligations.CarryAndBorrow : Prop :=
  ∀ x y : Word, carryOut x y = decide (2 ^ 32 ≤ x.toNat + y.toNat) ∧ borrowOut x y = decide (x.toNat < y.toNat) ∧
    borrowOut x y = !(x.setWidth 33 + (~~~y).setWidth 33 + 1#33).getLsbD 32

/-- R164 to R168: every count 0 to 31 where FULL_SHIFTER is true; the one-operand ROL is the count 1. -/
def Obligations.ShiftAndRotateResults : Prop :=
  ∀ (s : State) (ra : RegNo) (n : BitVec 5) (x : Word),
    (encode (.lsr ra n) = 0b0111000#7 ++ (n ++ ra) ∧ encode (.lsl ra n) = 0b0111001#7 ++ (n ++ ra) ∧
      encode (.asr ra n) = 0b0111010#7 ++ (n ++ ra) ∧ encode (.ror ra n) = 0b0111100#7 ++ (n ++ ra) ∧
      encode (.rol ra n) = 0b0111101#7 ++ (n ++ ra) ∧ encode (.rolOne ra) = 0b0111101#7 ++ (1#5 ++ ra)) ∧
    (s.plat.fullShifter = true → s.reg? ra = some x →
      writesReg (.lsr ra n) s ra (x >>> n.toNat) ∧ writesReg (.lsl ra n) s ra (x <<< n.toNat) ∧
      writesReg (.asr ra n) s ra (x.sshiftRight n.toNat) ∧ writesReg (.ror ra n) s ra (x.rotateRight n.toNat) ∧
      writesReg (.rol ra n) s ra (x.rotateLeft n.toNat) ∧ writesReg (.rolOne ra) s ra (x.rotateLeft 1))

/-- R163 (decision D23): where FULL_SHIFTER is false the counts the Y1A has complete as in the full shifter, and every
other count is refused. -/
def Obligations.Y1aShifterCounts : Prop :=
  ∀ (s : State) (ra : RegNo) (n : BitVec 5) (x : Word), s.plat.fullShifter = false → s.reg? ra = some x →
    writesReg (.lsr ra 1#5) s ra (x >>> 1) ∧ writesReg (.asr ra 1#5) s ra (x.sshiftRight 1) ∧
    writesReg (.ror ra 1#5) s ra (x.rotateRight 1) ∧ writesReg (.lsl ra 1#5) s ra (x <<< 1) ∧
    writesReg (.lsl ra 2#5) s ra (x <<< 2) ∧ writesReg (.rol ra 1#5) s ra (x.rotateLeft 1) ∧
    writesReg (.rol ra 2#5) s ra (x.rotateLeft 2) ∧ writesReg (.rolOne ra) s ra (x.rotateLeft 1) ∧
    (n ≠ 1#5 → exec (.lsr ra n) s = .refused .shifterCount ∧ exec (.asr ra n) s = .refused .shifterCount ∧
      exec (.ror ra n) s = .refused .shifterCount) ∧
    (n ≠ 1#5 → n ≠ 2#5 → exec (.lsl ra n) s = .refused .shifterCount ∧ exec (.rol ra n) s = .refused .shifterCount)

/-- R169: "bit `i` of the result is bit `i XOR N` of the source", on either shifter. -/
def Obligations.FlipPermutesBits : Prop :=
  ∀ (s : State) (ra : RegNo) (n : BitVec 5) (x : Word), encode (.flip ra n) = 0b0111011#7 ++ (n ++ ra) ∧
    (s.reg? ra = some x →
      ∃ v, writesReg (.flip ra n) s ra v ∧ ∀ i : BitVec 5, v.getLsbD i.toNat = x.getLsbD (i ^^^ n).toNat)

/-- R170 to R173. -/
def Obligations.ExtendResults : Prop :=
  ∀ (s : State) (ra rb : RegNo) (x : Word),
    (encode (.extUw ra rb) = 0b01111100#8 ++ (rb ++ ra) ∧ encode (.extSw ra rb) = 0b01111101#8 ++ (rb ++ ra) ∧
      encode (.extUb ra rb) = 0b01111110#8 ++ (rb ++ ra) ∧ encode (.extSb ra rb) = 0b01111111#8 ++ (rb ++ ra)) ∧
    (s.reg? rb = some x → ra ≠ 15#4 →
      writesReg (.extUw ra rb) s ra ((x.extractLsb' 0 16).setWidth 32) ∧
      writesReg (.extSw ra rb) s ra ((x.extractLsb' 0 16).signExtend 32) ∧
      writesReg (.extUb ra rb) s ra ((x.extractLsb' 0 8).setWidth 32) ∧
      writesReg (.extSb ra rb) s ra ((x.extractLsb' 0 8).signExtend 32))

/-- R25, R131, R156, R161, R174, R191, R197, R199, R225, R285 by decision D20: r15 in a position without a meaning is
refused, in every state; which refusal, where no placement rule and no shifter limit comes first. That a byte or wyde LD or
ST of r15 is refused where its access is misaligned or unmapped as well is the model's choice (log 44). -/
def Obligations.R15Refused : Prop :=
  ∀ (i : Instr) (s : State), namesR15 i = true → (∃ e, exec i s = .refused e) ∧
    (s.unhindered → s.plat.fullShifter = true →
      exec i s = .refused .r15Source ∨ exec i s = .refused .r15Destination ∨ exec i s = .refused .rsNonQuad)

/-! ## Memory group -/

/-- R180, with r15 as base the address of the instruction (R24); and the stack offset mode of R184. -/
def Obligations.EffectiveAddresses : Prop :=
  ∀ (s : State) (rb : RegNo) (off : BitVec 4) (base x14 : Word),
    ((if rb = 15#4 then base = s.pc else s.reg? rb = some base) → s.reg? 14#4 = some x14 →
      effAddr s .plain rb = base ∧ effAddr s .imm rb = base + x14) ∧
    (s.reg? 12#4 = some base → stackAddr s .fp off = base + 4#32 * off.setWidth 32) ∧
    (s.reg? 13#4 = some base → stackAddr s .sp off = base + 4#32 * off.setWidth 32)

/-- R185 to R190, R198: every load into a register, exactly one access (R71). What an operand that meets a device reads is
the spec's external draw (R325, decision D24) with the model's choices: the low bits of one 32-bit answer, from `devIn` or
where that is empty a free value, for every value of it, and the counter it advances (log 10); the read entered in the
record (log 11); memory's own bytes where the operand lies in both (log 43). -/
def Obligations.LoadsIntoRegister : Prop :=
  ∀ (s : State) (ra rb : RegNo) (mode : AddrMode) (base : StackBase) (off : BitVec 4), ra ≠ 15#4 →
    (accessible s .quad (effAddr s mode rb) →
      loadsReg (.ldq ra mode rb) s .quad (effAddr s mode rb) (fun v => v) ra) ∧
    (accessible s .quad (stackAddr s base off) →
      loadsReg (.ldqStack ra base off) s .quad (stackAddr s base off) (fun v => v) ra) ∧
    (accessible s .wyde (effAddr s mode rb) →
      loadsReg (.lduw ra mode rb) s .wyde (effAddr s mode rb) (fun v => v) ra ∧
      loadsReg (.ldsw ra mode rb) s .wyde (effAddr s mode rb) (fun v => (v.setWidth 16).signExtend 32) ra) ∧
    (accessible s .byte (effAddr s mode rb) →
      loadsReg (.ldub ra mode rb) s .byte (effAddr s mode rb) (fun v => v) ra ∧
      loadsReg (.ldsb ra mode rb) s .byte (effAddr s mode rb) (fun v => (v.setWidth 8).signExtend 32) ra)

/-- R193 to R196, R198: every store of a register, exactly one access (R71). Of a store that meets a device (R325) three
things are the model's choices: that the operand's addresses become written ones (log 17), the form of its record (log 11),
and that its bytes in memory are stored where the operand lies in both (log 43). -/
def Obligations.StoresOfRegister : Prop :=
  ∀ (s : State) (ra rb : RegNo) (mode : AddrMode) (base : StackBase) (off : BitVec 4) (x : Word), s.reg? ra = some x →
    (accessible s .quad (effAddr s mode rb) →
      storesOperand (.stq ra mode rb) s .quad (effAddr s mode rb) x s.rs) ∧
    (accessible s .quad (stackAddr s base off) →
      storesOperand (.stqStack ra base off) s .quad (stackAddr s base off) x s.rs) ∧
    (accessible s .wyde (effAddr s mode rb) →
      storesOperand (.stw ra mode rb) s .wyde (effAddr s mode rb) x s.rs) ∧
    (accessible s .byte (effAddr s mode rb) →
      storesOperand (.stb ra mode rb) s .byte (effAddr s mode rb) x s.rs)

/-- R64: the bytes of a quad and of a wyde, and what a narrower access to part of a quad sees. -/
def Obligations.BigEndianBytes : Prop :=
  ∀ (m : Memory) (a v : Word),
    (aligned .quad a = true →
      (m.writeCells (operandCells .quad a v)).read a.toNat = v.extractLsb' 24 8 ∧
      (m.writeCells (operandCells .quad a v)).read (a.toNat + 1) = v.extractLsb' 16 8 ∧
      (m.writeCells (operandCells .quad a v)).read (a.toNat + 2) = v.extractLsb' 8 8 ∧
      (m.writeCells (operandCells .quad a v)).read (a.toNat + 3) = v.extractLsb' 0 8 ∧
      (m.writeCells (operandCells .quad a v)).readOperand .quad a = v ∧
      (m.writeCells (operandCells .quad a v)).readOperand .byte a = (v.extractLsb' 24 8).setWidth 32 ∧
      (m.writeCells (operandCells .quad a v)).readOperand .wyde (a + 2#32) = (v.extractLsb' 0 16).setWidth 32) ∧
    (aligned .wyde a = true →
      (m.writeCells (operandCells .wyde a v)).read a.toNat = v.extractLsb' 8 8 ∧
      (m.writeCells (operandCells .wyde a v)).read (a.toNat + 1) = v.extractLsb' 0 8 ∧
      (m.writeCells (operandCells .wyde a v)).readOperand .wyde a = (v.extractLsb' 0 16).setWidth 32)

/-- R67 (D8), R62 (D12), R185 to R197, R202: a misaligned access stops by name, and so does one a byte of which lies where
there is nothing (that one such byte is enough: log 43). -/
def Obligations.AccessStops : Prop :=
  ∀ (s : State) (i : Instr) (n : Size) (a : Word), namesR15 i = false →
    (loadOf s i = some (n, a) → (pushesStack i = true → s.plat.rsManualAccess = true) →
      (aligned n a = false → exec i s = .fault (.misalignedRead a n)) ∧
      (aligned n a = true → touchesNothing s n a → exec i s = .fault (.unmapped a))) ∧
    (storeOf s i = some (n, a) → (popsStack i = true → s.plat.rsManualAccess = true ∧ s.rs ≠ []) →
      (aligned n a = false → exec i s = .fault (.misalignedWrite a n)) ∧
      (aligned n a = true → touchesNothing s n a → exec i s = .fault (.unmapped a)))

/-- R191, R28: LD with RA = 15 pushes the quad it reads, in either addressing form. What it reads from a device is the
external draw of R325 (decision D24) with the model's choices of LoadsIntoRegister: one answer from `devIn` or the free value
and its counter (log 10), the read recorded (log 11), memory's own bytes where the quad lies in both (log 43). -/
def Obligations.LoadPushesReturnStack : Prop :=
  ∀ (s : State) (q : QuadAddr) (mode : AddrMode) (rb : RegNo) (base : StackBase) (off : BitVec 4),
    exec (.ldq 15#4 mode rb) s = exec (.ldqRs (.normal mode rb)) s ∧
    exec (.ldqStack 15#4 base off) s = exec (.ldqRs (.stack base off)) s ∧
    (s.plat.rsManualAccess = true → accessible s .quad (quadAddr s q) → s.rs.length < s.plat.rsDepth →
      ∃ t v, exec (.ldqRs q) s = .next t ∧ readsOperand s t .quad (quadAddr s q) v ∧ t.rs = v :: s.rs ∧
        regsSame s t ∧ memSame s t ∧ systemSame s t ∧ flagsSame s t)

/-- R197, R28: ST with RA = 15 stores the quad it pops, in either addressing form. Of a store that meets a device (R325) the
written addresses (log 17), the record (log 11) and the quad that lies in both (log 43) are the model's choices. -/
def Obligations.StorePopsReturnStack : Prop :=
  ∀ (s : State) (q : QuadAddr) (mode : AddrMode) (rb : RegNo) (base : StackBase) (off : BitVec 4) (v : Word)
    (rest : List Word),
    exec (.stq 15#4 mode rb) s = exec (.stqRs (.normal mode rb)) s ∧
    exec (.stqStack 15#4 base off) s = exec (.stqRs (.stack base off)) s ∧
    (s.plat.rsManualAccess = true → accessible s .quad (quadAddr s q) → s.rs = v :: rest →
      storesOperand (.stqRs q) s .quad (quadAddr s q) v rest)

/-- R28, R191, R197 (D14), C1 (log 6): where LD or ST of r15 stops, once its own access is sound. -/
def Obligations.ReturnStackStops : Prop :=
  ∀ (s : State) (q : QuadAddr),
    (s.plat.rsManualAccess = false →
      exec (.ldqRs q) s = .refused .rsManualAccess ∧ exec (.stqRs q) s = .refused .rsManualAccess) ∧
    (s.plat.rsManualAccess = true → s.rs = [] → exec (.stqRs q) s = .fault .rsUnderflow) ∧
    (s.plat.rsManualAccess = true → accessible s .quad (quadAddr s q) → s.plat.rsDepth ≤ s.rs.length →
      exec (.ldqRs q) s = .fault .rsOverflow)

/-- R72 (D10), R66: a load from memory gives what the store before it stored there, in each of the three sizes. -/
def Obligations.StoreThenLoad : Prop :=
  ∀ (s t : State) (ra rb rd rb' : RegNo) (mode mode' : AddrMode) (x : Word),
    s.reg? ra = some x → rd ≠ 15#4 → effAddr t mode' rb' = effAddr s mode rb →
    (inMemory s .quad (effAddr s mode rb) → exec (.stq ra mode rb) s = .next t →
      ∃ u, exec (.ldq rd mode' rb') t = .next u ∧ u.reg? rd = some x) ∧
    (inMemory s .wyde (effAddr s mode rb) → exec (.stw ra mode rb) s = .next t →
      (∃ u, exec (.lduw rd mode' rb') t = .next u ∧ u.reg? rd = some ((x.setWidth 16).setWidth 32)) ∧
      ∃ u, exec (.ldsw rd mode' rb') t = .next u ∧ u.reg? rd = some ((x.setWidth 16).signExtend 32)) ∧
    (inMemory s .byte (effAddr s mode rb) → exec (.stb ra mode rb) s = .next t →
      (∃ u, exec (.ldub rd mode' rb') t = .next u ∧ u.reg? rd = some ((x.setWidth 8).setWidth 32)) ∧
      ∃ u, exec (.ldsb rd mode' rb') t = .next u ∧ u.reg? rd = some ((x.setWidth 8).signExtend 32))

/-- R297, R191, R197: `st rs` to a place in memory and later `ld rs` from it leave the return stack as it was. -/
def Obligations.SpillAndRestore : Prop :=
  ∀ (s t : State) (q q' : QuadAddr), exec (.stqRs q) s = .next t → quadAddr t q' = quadAddr s q →
    inMemory s .quad (quadAddr s q) → s.rs.length ≤ s.plat.rsDepth →
    ∃ u, exec (.ldqRs q') t = .next u ∧ u.rs = s.rs ∧ regsSame s u

/-- R199, R200, R180: LEA writes the address itself, in its three SIZE encodings; no access, no alignment check. -/
def Obligations.LeaWritesAddress : Prop :=
  ∀ (s : State) (ra rb : RegNo) (mode : AddrMode) (size : LeaSize), ra ≠ 15#4 →
    writesReg (.lea ra mode size rb) s ra (effAddr s mode rb)

/-- R202, R26 (decision D2), R67: LDI reads the quad at its address, which is always aligned, into imm. What it reads from a
device is the external draw of R325 (decision D24) with the model's choices of LoadsIntoRegister: one answer from `devIn` or
the free value and its counter (log 10), the read recorded (log 11), memory's own bytes where the quad lies in both
(log 43). -/
def Obligations.LdiReadsQuadIntoImm : Prop :=
  ∀ (s : State) (ea12 : BitVec 12),
    ldiAddr s ea12 = BitVec.ofNat 32 (s.pc.toNat / 4 * 4 + 4 * ea12.toNat) ∧ aligned .quad (ldiAddr s ea12) = true ∧
    (¬ touchesNothing s .quad (ldiAddr s ea12) →
      loadsReg (.ldi ea12) s .quad (ldiAddr s ea12) (fun v => v) 14#4)

/-- R203: IMM12 loads its sign-extended constant into imm. -/
def Obligations.Imm12SignExtends : Prop :=
  ∀ (s : State) (i12 : BitVec 12), encode (.imm12 i12) = 0b1011#4 ++ i12 ∧
    writesReg (.imm12 i12) s 14#4 (i12.signExtend 32)

/-- R213, R214 (decision D15: no interrupt is taken): DI and EI write IE and nothing else. -/
def Obligations.DiEiWriteInterruptEnable : Prop :=
  encode .di = 0b1100011100000100#16 ∧ encode .ei = 0b1100111100000100#16 ∧
  ∀ s : State,
    (∃ t, exec .di s = .next t ∧ t.ie = false ∧ regsSame s t ∧ memSame s t ∧ stackSame s t ∧ t.sr = s.sr ∧
      t.plat = s.plat ∧ flagsSame s t ∧ devicesSame s t) ∧
    (∃ t, exec .ei s = .next t ∧ t.ie = true ∧ regsSame s t ∧ memSame s t ∧ stackSame s t ∧ t.sr = s.sr ∧
      t.plat = s.plat ∧ flagsSame s t ∧ devicesSame s t)

/-! ## SKIP and SPAM -/

/-- R226 to R235: the register comparisons, unsigned and signed. -/
def Obligations.SkipRegisterPairTests : Prop :=
  ∀ (s : State) (ra rb : RegNo) (x y : Word),
    (encode (.skipLo ra rb) = 0b11010000#8 ++ (rb ++ ra) ∧ encode (.skipHs ra rb) = 0b11011000#8 ++ (rb ++ ra) ∧
      encode (.skipLs ra rb) = 0b11010001#8 ++ (rb ++ ra) ∧ encode (.skipHi ra rb) = 0b11011001#8 ++ (rb ++ ra) ∧
      encode (.skipLt ra rb) = 0b11010010#8 ++ (rb ++ ra) ∧ encode (.skipGe ra rb) = 0b11011010#8 ++ (rb ++ ra) ∧
      encode (.skipLe ra rb) = 0b11010011#8 ++ (rb ++ ra) ∧ encode (.skipGt ra rb) = 0b11011011#8 ++ (rb ++ ra) ∧
      encode (.skipEq ra rb) = 0b11010100#8 ++ (rb ++ ra) ∧ encode (.skipNe ra rb) = 0b11011100#8 ++ (rb ++ ra)) ∧
    (s.reg? ra = some x → s.reg? rb = some y → s.unhindered →
      makesTest (.skipLo ra rb) s (decide (x.toNat < y.toNat)) ∧
      makesTest (.skipHs ra rb) s (decide (y.toNat ≤ x.toNat)) ∧
      makesTest (.skipLs ra rb) s (decide (x.toNat ≤ y.toNat)) ∧
      makesTest (.skipHi ra rb) s (decide (y.toNat < x.toNat)) ∧
      makesTest (.skipLt ra rb) s (decide (x.toInt < y.toInt)) ∧
      makesTest (.skipGe ra rb) s (decide (y.toInt ≤ x.toInt)) ∧
      makesTest (.skipLe ra rb) s (decide (x.toInt ≤ y.toInt)) ∧
      makesTest (.skipGt ra rb) s (decide (y.toInt < x.toInt)) ∧
      makesTest (.skipEq ra rb) s (decide (x = y)) ∧ makesTest (.skipNe ra rb) s (decide (x ≠ y)))

/-- R236, R237, R242, R243, R250 to R253: the tests of one register against zero and of one bit. -/
def Obligations.SkipUnaryTests : Prop :=
  ∀ (s : State) (ra : RegNo) (k : BitVec 5) (x : Word),
    (encode (.skipZ ra) = 0b110101010000#12 ++ ra ∧ encode (.skipNz ra) = 0b110111010000#12 ++ ra ∧
      encode (.skipLez ra) = 0b110101010100#12 ++ ra ∧ encode (.skipGtz ra) = 0b110111010100#12 ++ ra ∧
      encode (.skipBs ra k) = 0b1101011#7 ++ (k ++ ra) ∧ encode (.skipBc ra k) = 0b1101111#7 ++ (k ++ ra) ∧
      encode (.skipPl ra) = 0b110111111111#12 ++ ra ∧ encode (.skipMi ra) = 0b110101111111#12 ++ ra) ∧
    (s.reg? ra = some x → s.unhindered →
      makesTest (.skipZ ra) s (decide (x = 0#32)) ∧ makesTest (.skipNz ra) s (decide (x ≠ 0#32)) ∧
      makesTest (.skipLez ra) s (decide (x.toInt ≤ 0)) ∧ makesTest (.skipGtz ra) s (decide (0 < x.toInt)) ∧
      makesTest (.skipBs ra k) s (x.getLsbD k.toNat) ∧ makesTest (.skipBc ra k) s (!x.getLsbD k.toNat) ∧
      makesTest (.skipPl ra) s (decide (0 ≤ x.toInt)) ∧ makesTest (.skipMi ra) s (decide (x.toInt < 0)))

/-- R238 to R241, R244 to R247 by decision D7: any or no wyde or byte is zero or has its top bit set. -/
def Obligations.SkipWydeAndByteTests : Prop :=
  ∀ (s : State) (ra : RegNo) (x : Word), s.reg? ra = some x → s.unhindered →
    makesTest (.skipAwz ra) s (decide (∃ k : Fin 2, x.extractLsb' (16 * k) 16 = 0#16)) ∧
    makesTest (.skipNwz ra) s (decide (∀ k : Fin 2, x.extractLsb' (16 * k) 16 ≠ 0#16)) ∧
    makesTest (.skipAbz ra) s (decide (∃ k : Fin 4, x.extractLsb' (8 * k) 8 = 0#8)) ∧
    makesTest (.skipNbz ra) s (decide (∀ k : Fin 4, x.extractLsb' (8 * k) 8 ≠ 0#8)) ∧
    makesTest (.skipAwm ra) s (decide (∃ k : Fin 2, x.getLsbD (16 * k + 15) = true)) ∧
    makesTest (.skipNwm ra) s (decide (∀ k : Fin 2, x.getLsbD (16 * k + 15) = false)) ∧
    makesTest (.skipAbm ra) s (decide (∃ k : Fin 4, x.getLsbD (8 * k + 7) = true)) ∧
    makesTest (.skipNbm ra) s (decide (∀ k : Fin 4, x.getLsbD (8 * k + 7) = false))

/-- R254, R255, R248, R249, R30 (decision D24): SKIP.A and SKIP.N, and the flag tests. R254 and R255 add that a read of an
r0 never written faults (D13); in the model every register holds a value, so both complete in every unhindered state
(log 1). The flag levels are the platform's next sample, or where it has supplied none a free value (log 9), for every value
of it. -/
def Obligations.SkipAlwaysNeverFlags : Prop :=
  ∀ (s : State) (n : BitVec 4), s.unhindered →
    makesTest .skipA s true ∧ makesTest .skipN s false ∧
    (∀ l rest, s.flagIn = l :: rest → nextLevels s = l) ∧
    (∃ t, exec (.skipFs n) s = .next t ∧ t.skipNext = (nextLevels s).getLsbD n.toNat ∧ t.skipKind = .skip ∧
      regsSame s t ∧ memSame s t ∧ stackSame s t ∧ systemSame s t ∧ devicesSame s t ∧
      t.flagIn = s.flagIn.tail ∧ t.flagCount = s.flagCount + 1) ∧
    (∃ t, exec (.skipFc n) s = .next t ∧ t.skipNext = !(nextLevels s).getLsbD n.toNat ∧ t.skipKind = .skip ∧
      regsSame s t ∧ memSame s t ∧ stackSame s t ∧ systemSame s t ∧ devicesSame s t ∧
      t.flagIn = s.flagIn.tail ∧ t.flagCount = s.flagCount + 1)

/-- R258: in the shadow of an executed SKIP.cc, SPAM.AND loads its mask where the skip test is true, else nothing. -/
def Obligations.SpamAndLoadsVector : Prop :=
  ∀ (s : State) (mask : BitVec 8), encode (.spamAnd mask) = 0b11110111#8 ++ mask ∧
    (s.unhindered → s.skipKind = .skip →
      ∃ t, exec (.spamAnd mask) s = .next t ∧ t.sv = (if s.skipNext = true then mask else 0x00#8) ∧
        regsSame s t ∧ restSame s t)

/-- R259, R260 by decision D5 (length 8 - TRUNC): bit 7 - n of the vector, for the n-th slot to come. -/
def Obligations.SpamXornLoadsVector : Prop :=
  ∀ (s : State) (trunc : BitVec 3) (mask : BitVec 8), s.unhindered → s.skipKind = .skip →
    ∃ t, exec (.spamXorn trunc mask) s = .next t ∧ regsSame s t ∧ restSame s t ∧
      ∀ n, n < 8 → t.sv.getLsbD (7 - n) =
        (decide (n < 8 - trunc.toNat) && (s.skipNext ^^ !mask.getLsbD (7 - n)))

/-! ## Control transfer -/

/-- R276, R277: short branches. An even `pc` is what R276 and R273 presuppose; the placement hypothesis is R224's. -/
def Obligations.ShortBranchTargets : Prop :=
  ∀ (s : State) (i9 : BitVec 9),
    (encode (.bra i9) = 0b1110001#7 ++ i9 ∧ encode (.braD i9) = 0b1110000#7 ++ i9) ∧
    (s.pc.getLsbD 0 = false → s.unhindered →
      transfers (.bra i9) s true (shortBranch s i9) ∧ transfers (.braD i9) s false (shortBranch s i9))

/-- R280, R281, R105 (decision D4): long branches, the upper offset bits from imm. -/
def Obligations.LongBranchTargets : Prop :=
  ∀ (s : State) (i9 : BitVec 9) (x : Word), s.pc.getLsbD 0 = false → s.unhindered → s.reg? 14#4 = some x →
    transfers (.lbra i9) s true (longBranch s x i9) ∧ transfers (.lbraD i9) s false (longBranch s x i9)

/-- R285, R286, R289, R290 (D9, C7): register jumps to an even target. -/
def Obligations.RegisterJumpTargets : Prop :=
  ∀ (s : State) (ra : RegNo) (x : Word), s.reg? ra = some x → s.unhindered →
    (x.getLsbD 0 = false → transfers (.jmp ra) s true x ∧ transfers (.jmpD ra) s false x) ∧
    ((s.pc + x).getLsbD 0 = false → transfers (.rbra ra) s true (s.pc + x) ∧ transfers (.rbraD ra) s false (s.pc + x))

/-- R278, R279, R282, R283, R287, R288, R291, R292, R274 (decision D3): calls push the address after them, or after their
delay slot, and go to their target. -/
def Obligations.CallsPushAndGo : Prop :=
  ∀ s : State, s.unhindered → s.rs.length < s.plat.rsDepth →
    (∀ (i9 : BitVec 9) (x : Word), s.pc.getLsbD 0 = false → s.reg? 14#4 = some x →
      transfersWithStack (.bsr i9) s true (shortBranch s i9) ((s.pc + 2#32) :: s.rs) ∧
      transfersWithStack (.bsrD i9) s false (shortBranch s i9) ((s.pc + 4#32) :: s.rs) ∧
      transfersWithStack (.lbsr i9) s true (longBranch s x i9) ((s.pc + 2#32) :: s.rs) ∧
      transfersWithStack (.lbsrD i9) s false (longBranch s x i9) ((s.pc + 4#32) :: s.rs)) ∧
    (∀ (ra : RegNo) (x : Word), s.reg? ra = some x →
      (x.getLsbD 0 = false →
        transfersWithStack (.jsr ra) s true x ((s.pc + 2#32) :: s.rs) ∧
        transfersWithStack (.jsrD ra) s false x ((s.pc + 4#32) :: s.rs)) ∧
      ((s.pc + x).getLsbD 0 = false →
        transfersWithStack (.rbsr ra) s true (s.pc + x) ((s.pc + 2#32) :: s.rs) ∧
        transfersWithStack (.rbsrD ra) s false (s.pc + x) ((s.pc + 4#32) :: s.rs)))

/-- R293, R294: returns pop their target. -/
def Obligations.ReturnsPopTarget : Prop :=
  ∀ (s : State) (v : Word) (rest : List Word), s.unhindered → s.rs = v :: rest → v.getLsbD 0 = false →
    transfersWithStack .rts s true v rest ∧ transfersWithStack .rtsD s false v rest

/-- R273 (D9), R275 (D14): odd targets, a full return stack, an empty one. -/
def Obligations.TransferStops : Prop :=
  ∀ s : State, s.unhindered →
    (∀ (ra : RegNo) (x : Word), s.reg? ra = some x →
      (x.getLsbD 0 = true → exec (.jmp ra) s = .fault (.oddTarget x) ∧ exec (.jmpD ra) s = .fault (.oddTarget x) ∧
        (s.rs.length < s.plat.rsDepth →
          exec (.jsr ra) s = .fault (.oddTarget x) ∧ exec (.jsrD ra) s = .fault (.oddTarget x))) ∧
      ((s.pc + x).getLsbD 0 = true →
        exec (.rbra ra) s = .fault (.oddTarget (s.pc + x)) ∧ exec (.rbraD ra) s = .fault (.oddTarget (s.pc + x)) ∧
        (s.rs.length < s.plat.rsDepth →
          exec (.rbsr ra) s = .fault (.oddTarget (s.pc + x)) ∧ exec (.rbsrD ra) s = .fault (.oddTarget (s.pc + x)))) ∧
      (s.plat.rsDepth ≤ s.rs.length →
        exec (.jsr ra) s = .fault .rsOverflow ∧ exec (.jsrD ra) s = .fault .rsOverflow ∧
        exec (.rbsr ra) s = .fault .rsOverflow ∧ exec (.rbsrD ra) s = .fault .rsOverflow)) ∧
    (∀ i9 : BitVec 9, s.plat.rsDepth ≤ s.rs.length →
      exec (.bsr i9) s = .fault .rsOverflow ∧ exec (.bsrD i9) s = .fault .rsOverflow ∧
      exec (.lbsr i9) s = .fault .rsOverflow ∧ exec (.lbsrD i9) s = .fault .rsOverflow) ∧
    (s.rs = [] → exec .rts s = .fault .rsUnderflow ∧ exec .rtsD s = .fault .rsUnderflow) ∧
    (∀ (v : Word) (rest : List Word), s.rs = v :: rest → v.getLsbD 0 = true →
      exec .rts s = .fault (.oddTarget v) ∧ exec .rtsD s = .fault (.oddTarget v))

/-- R224 a to e by decisions D18 and D26: where an executed control transfer, skip-class instruction or SPAM is refused.
Which restriction is named where two are violated at once is the model's choice (log 44). -/
def Obligations.PlacementRefused : Prop :=
  ∀ (i : Instr) (s : State),
    (classOf i = .transfer →
      (s.delayTarget ≠ none → exec i s = .refused .transferInDelaySlot) ∧
      (s.delayTarget = none → s.sv <<< 1 ≠ 0#8 → exec i s = .refused .transferUnderVector)) ∧
    (classOf i = .skip ∨ classOf i = .spam →
      (s.delayTarget ≠ none → exec i s = .refused .skipInDelaySlot) ∧
      (s.delayTarget = none → s.sv <<< 1 ≠ 0#8 → exec i s = .refused .skipUnderVector)) ∧
    (classOf i = .spam → s.unhindered → s.skipKind ≠ .skip → exec i s = .refused .spamNotInShadow)

/-- R110, R192, R201, R215, R216, R295, R296, R312, R316 by decisions D16, D17, D22 and D27: the words without an effect.
That the name is this one also where R224 could refuse the word in its position is the model's choice (log 44). -/
def Obligations.StopsOnEveryPath : Prop :=
  ∀ s : State,
    (∀ op b11 ra rb, exec (.undefRegOpb op b11 ra rb) s = .refused .registerOpbBit8) ∧
    (∀ m z ra rb, exec (.undefLdQuadSign m z ra rb) s = .refused .ldQuadSigned) ∧
    (∀ m ra off, exec (.undefLeaSize m ra off) s = .refused .leaStackForm) ∧
    (∀ x, exec (.undefCoproc x) s = .refused .coprocessorWord) ∧
    (∀ ccc n, exec (.skipCpt ccc n) s = .refused .coprocessorSkip ∧ exec (.skipCpf ccc n) s = .refused .coprocessorSkip) ∧
    exec .rti s = .refused .rtiUndefined ∧ exec .rtiD s = .refused .rtiUndefined ∧
    (∀ tr, exec (.trap tr) s = .refused (.trapUndefined tr) ∧ exec (.trapD tr) s = .refused (.trapUndefined tr)) ∧
    (∀ sense ra, exec (.undefScc sense ra) s = .fault .undefinedEncoding) ∧
    (∀ b9 x, exec (.undefBit10 b9 x) s = .fault .undefinedEncoding) ∧
    (∀ b code ra, exec (.undefJ b code ra) s = .fault .undefinedEncoding)

/-! ## Whole-machine rules -/

/-- R23, R131, R156, R174, R198, R225, R257: an executed instruction writes no register but its destination; imm changes only
where an instruction names it or is LDI or IMM12, and no instruction changes sp or fp implicitly (R22). -/
def Obligations.DestinationFrame : Prop :=
  ∀ (i : Instr) (s t : State) (r : RegNo), exec i s = .next t → destOf i ≠ some r → t.reg? r = s.reg? r

/-- R213, R214, R322, R36, R344: IE changes by DI and EI only, and no executed instruction changes SR or a launch
parameter. -/
def Obligations.SystemStateFrame : Prop :=
  ∀ (i : Instr) (s t : State), exec i s = .next t →
    t.sr = s.sr ∧ t.plat = s.plat ∧ (i ≠ .di → i ≠ .ei → t.ie = s.ie)

/-- R66, R71, R198: an executed instruction that is no ST leaves every byte of memory and the record of written addresses
as they were; an ST leaves every byte outside the operand at the address its meaning computes. -/
def Obligations.OnlyStoresWriteMemory : Prop :=
  ∀ (i : Instr) (s t : State), exec i s = .next t →
    (storeOf s i = none → memSame s t) ∧ ∀ n a, storeOf s i = some (n, a) → memExcept s t n a

/-- R28, R191, R197, R275: the return stack is pushed by calls and LD of r15, popped by RTS and ST of r15, by one entry,
and is otherwise unchanged. -/
def Obligations.ReturnStackMoves : Prop :=
  ∀ (i : Instr) (s t : State), exec i s = .next t →
    (pushesStack i = true → ∃ v, t.rs = v :: s.rs) ∧ (popsStack i = true → ∃ v, s.rs = v :: t.rs) ∧
    (pushesStack i = false → popsStack i = false → t.rs = s.rs)

/-- R70, R71, R198, R72 (D10), R30: an executed instruction adds at most one device access to the record, at its end; one that
is no LD, ST or LDI adds none; and no instruction but SKIP.FS and SKIP.FC samples the flags. The record, and that it holds
reads as well as writes, is the model's choice (log 11). -/
def Obligations.ExternalAccesses : Prop :=
  ∀ (i : Instr) (s t : State), exec i s = .next t →
    (∃ l, t.devLog = s.devLog ++ l ∧ l.length ≤ 1 ∧ (accessesData i = false → l = [])) ∧
    ((∀ n, i ≠ .skipFs n) → (∀ n, i ≠ .skipFc n) → flagsSame s t)

/-- R271, R220: whatever a pending delay slot does, executed or nullified, the slot after it is at the target. -/
def Obligations.DelaySlotThenTarget : Prop :=
  ∀ (s t : State) (target : Word), s.delayTarget = some target → step s = .next t →
    t.pc = target ∧ t.delayTarget = none

/-- R274 (decision D3), R275, R293: a return with the return stack as a call left it goes to the instruction after the call,
or after its delay slot, and leaves the return stack as it was before the call. -/
def Obligations.CallThenReturn : Prop :=
  ∀ (i : Instr) (s t u : State), classOf i = .transfer → pushesStack i = true → exec i s = .next t →
    s.pc.getLsbD 0 = false → u.rs = t.rs → u.unhindered →
    ∃ w, exec .rts u = .next w ∧ w.rs = s.rs ∧
      w.pc = if t.delayTarget = none then s.pc + 2#32 else s.pc + 4#32

/-- R327 (decision D28): an executed `bra .` with no vector bit and no test pending changes nothing at all. -/
def Obligations.BranchToSelfEndsRun : Prop :=
  ∀ s : State, s.fetchable → s.wordAtPc = 0xE200#16 → s.skipNext = false → s.skipKind = .none → s.sv = 0#8 →
    s.delayTarget = none → s.ended
end

