-- ==== Sys2Proof/Laws/Memory.lean ====
section
/-! SUPPORT. The laws of memory: a read after a write, the canonical form that every memory operation keeps, the record of
written addresses, and the operands (spec/20_memory.md R64, R66, R67, R74). -/

namespace Sys2Proof.Machine

/-! ## One byte -/

theorem Memory.read_filter (m : Memory) (a b : Nat) :
    Memory.read (m.filter fun c => c.1 != a) b = if a = b then Config.unlistedByte else m.read b := by
  induction m with
  | nil => simp [Memory.read]
  | cons c m ih =>
    by_cases hc : c.1 = a
    · by_cases hb : a = b <;> simp_all [Memory.read]
    · by_cases hb : a = b
      · subst hb; simp_all [Memory.read]
      · simp_all [Memory.read]

theorem Memory.read_insert (m : Memory) (c : Host.Cell) (b : Nat) (h : ∀ d ∈ m, d.1 ≠ c.1) :
    (m.insert c).read b = if c.1 = b then c.2 else m.read b := by
  induction m with
  | nil => simp [Memory.insert, Memory.read]
  | cons d m ih =>
    have hd : d.1 ≠ c.1 := h d (by simp)
    have ih := ih fun e he => h e (by simp [he])
    by_cases hlt : c.1 < d.1
    · simp [Memory.insert, hlt, Memory.read]
    · by_cases hb : d.1 = b
      · have : c.1 ≠ b := fun e => hd (hb.trans e.symm)
        rw [Memory.insert, if_neg hlt, Memory.read, if_pos hb, if_neg this, Memory.read, if_pos hb]
      · simp [Memory.insert, hlt, Memory.read, hb, ih]

/-- A read after a write: the byte written at its address, every other address as before. -/
theorem Memory.read_write (m : Memory) (a : Nat) (v : Byte) (b : Nat) :
    (m.write a v).read b = if a = b then v else m.read b := by
  unfold Memory.write
  by_cases hv : v = Config.unlistedByte
  · simp [hv, Memory.read_filter]
  · simp only [hv, if_false]
    rw [Memory.read_insert _ _ _ (by simp +contextual), Memory.read_filter]
    by_cases hb : a = b <;> simp [hb]

@[simp] theorem Memory.read_write_same (m : Memory) (a : Nat) (v : Byte) : (m.write a v).read a = v := by
  simp [Memory.read_write]

theorem Memory.read_write_ne (m : Memory) {a b : Nat} (v : Byte) (h : a ≠ b) : (m.write a v).read b = m.read b := by
  simp [Memory.read_write, h]

/-! ## The canonical form -/

theorem Memory.mem_insert (m : Memory) (c d : Host.Cell) : d ∈ m.insert c ↔ d = c ∨ d ∈ m := by
  induction m with
  | nil => simp [Memory.insert]
  | cons e m ih =>
    by_cases h : c.1 < e.1
    · simp [Memory.insert, h]
    · simp [Memory.insert, h, ih]; tauto

theorem Memory.wf_nil : Memory.wf [] := by simp [Memory.wf]

/-- A write keeps the canonical form. -/
theorem Memory.wf_write {m : Memory} (h : m.wf) {a : Nat} (ha : a < 2 ^ 32) (v : Byte) : (m.write a v).wf := by
  have hf : Memory.wf (m.filter fun c => c.1 != a) :=
    ⟨h.1.filter _, fun c hc => h.2 c (List.mem_of_mem_filter hc)⟩
  unfold Memory.write
  by_cases hv : v = Config.unlistedByte
  · simpa [hv] using hf
  · simp only [hv, if_false]
    have hne : ∀ c ∈ m.filter (fun c => c.1 != a), c.1 ≠ a := by simp +contextual
    generalize m.filter (fun c => c.1 != a) = r at hf hne
    refine ⟨?_, fun c hc => ?_⟩
    · clear h m
      induction r with
      | nil => simp [Memory.insert]
      | cons d r ih =>
        have hr : Memory.wf r := ⟨(List.pairwise_cons.mp hf.1).2, fun c hc => hf.2 c (by simp [hc])⟩
        have hd := (List.pairwise_cons.mp hf.1).1
        have hda := hne d (by simp)
        by_cases hlt : a < d.1
        · simp only [Memory.insert, hlt, if_true]
          refine List.pairwise_cons.mpr ⟨fun e he => ?_, hf.1⟩
          rcases List.mem_cons.mp he with rfl | he
          · exact hlt
          · exact Nat.lt_trans hlt (hd e he)
        · simp only [Memory.insert, hlt, if_false]
          refine List.pairwise_cons.mpr ⟨fun e he => ?_, ih hr fun c hc => hne c (by simp [hc])⟩
          rcases (Memory.mem_insert _ _ _).mp he with rfl | he
          · exact Nat.lt_of_le_of_ne (Nat.le_of_not_lt hlt) hda
          · exact hd e he
    · rcases (Memory.mem_insert _ _ _).mp hc with rfl | hc
      · exact ⟨ha, hv⟩
      · exact hf.2 c hc

/-- Memories in canonical form that read alike are equal. -/
theorem Memory.ext_of_wf {m n : Memory} (hm : m.wf) (hn : n.wf) (h : ∀ a, m.read a = n.read a) : m = n := by
  have low : ∀ (m : Memory) (a : Nat), (∀ c ∈ m, a < c.1) → m.read a = Config.unlistedByte := by
    intro m a
    induction m with
    | nil => simp [Memory.read]
    | cons c m ih =>
      intro hl
      have : c.1 ≠ a := Nat.ne_of_gt (hl c (by simp))
      simp [Memory.read, this, ih fun d hd => hl d (by simp [hd])]
  induction m generalizing n with
  | nil =>
    cases n with
    | nil => rfl
    | cons d n => exact absurd (by simpa [Memory.read] using h d.1) (Ne.symm (hn.2 d (by simp)).2)
  | cons c m ih =>
    have hc := List.pairwise_cons.mp hm.1
    cases n with
    | nil => exact absurd (by simpa [Memory.read] using h c.1) (hm.2 c (by simp)).2
    | cons d n =>
      have hd := List.pairwise_cons.mp hn.1
      rcases Nat.lt_trichotomy c.1 d.1 with hlt | heq | hlt
      · have := low (d :: n) c.1 fun e he => by
          rcases List.mem_cons.mp he with rfl | he
          · exact hlt
          · exact Nat.lt_trans hlt (hd.1 e he)
        exact absurd ((by simp [Memory.read] : c.2 = _).trans ((h c.1).trans this)) (hm.2 c (by simp)).2
      · have h2 : c.2 = d.2 := by simpa [Memory.read, heq] using h c.1
        have hcd : c = d := Prod.ext heq h2
        subst hcd
        rw [ih ⟨hc.2, fun e he => hm.2 e (by simp [he])⟩ ⟨hd.2, fun e he => hn.2 e (by simp [he])⟩ ?_]
        intro a
        by_cases ha : c.1 = a
        · subst ha; rw [low _ _ hc.1, low _ _ hd.1]
        · simpa [Memory.read, ha] using h a
      · have := low (c :: m) d.1 fun e he => by
          rcases List.mem_cons.mp he with rfl | he
          · exact hlt
          · exact Nat.lt_trans hlt (hc.1 e he)
        exact absurd ((by simp [Memory.read] : d.2 = _).trans ((h d.1).symm.trans this)) (hn.2 d (by simp)).2

/-! ## Cells -/

theorem Memory.writeCells_cons (m : Memory) (c : Host.Cell) (l : List Host.Cell) :
    m.writeCells (c :: l) = (m.write c.1 c.2).writeCells l := rfl

/-- An address that no cell names reads as before. -/
theorem Memory.read_writeCells_of_forall_ne (m : Memory) (l : List Host.Cell) (a : Nat) (h : ∀ c ∈ l, c.1 ≠ a) :
    (m.writeCells l).read a = m.read a := by
  induction l generalizing m with
  | nil => rfl
  | cons c l ih =>
    rw [Memory.writeCells_cons, ih _ fun d hd => h d (by simp [hd]), Memory.read_write_ne _ _ (h c (by simp))]

/-- An address reads as the one byte that the cells naming it hold. -/
theorem Memory.read_writeCells_of_mem (m : Memory) (l : List Host.Cell) {a : Nat} {b : Byte} (hex : ∃ c ∈ l, c.1 = a)
    (h : ∀ c ∈ l, c.1 = a → c.2 = b) : (m.writeCells l).read a = b := by
  induction l generalizing m with
  | nil => simp at hex
  | cons c l ih =>
    rw [Memory.writeCells_cons]
    by_cases hl : ∃ d ∈ l, d.1 = a
    · exact ih _ hl fun d hd => h d (by simp [hd])
    · rw [Memory.read_writeCells_of_forall_ne _ _ _ fun d hd he => hl ⟨d, hd, he⟩]
      have hc : c.1 = a := by simpa [hl] using hex
      rw [← hc, Memory.read_write_same, h c (by simp) hc]

/-- Writing cells keeps the canonical form. -/
theorem Memory.wf_writeCells {m : Memory} (hm : m.wf) (l : List Host.Cell) (h : ∀ c ∈ l, c.1 < 2 ^ 32) :
    (m.writeCells l).wf := by
  induction l generalizing m with
  | nil => exact hm
  | cons c l ih => exact ih (Memory.wf_write hm (h c (by simp)) c.2) fun d hd => h d (by simp [hd])

/-- The cells of an operand have 32-bit addresses. -/
theorem operandCells_lt (n : Size) (a v : Word) : ∀ c ∈ operandCells n a v, c.1 < 2 ^ 32 := by
  cases n <;> simp [operandCells] <;> omega

/-- The addresses of an aligned quad do not wrap (R66). -/
theorem aligned_quad {a : Word} (h : aligned .quad a = true) :
    (a + 1#32).toNat = a.toNat + 1 ∧ (a + 2#32).toNat = a.toNat + 2 ∧ (a + 3#32).toNat = a.toNat + 3 := by
  simp [aligned, Size.bytes] at h
  have := a.isLt
  simp [BitVec.toNat_add]; omega

/-- The addresses of an aligned wyde do not wrap (R66). -/
theorem aligned_wyde {a : Word} (h : aligned .wyde a = true) : (a + 1#32).toNat = a.toNat + 1 := by
  simp [aligned, Size.bytes] at h
  have := a.isLt
  simp [BitVec.toNat_add]; omega

/-- The cells of an aligned operand lie in its bytes. -/
theorem operandCells_within (n : Size) (a v : Word) (h : aligned n a = true) :
    ∀ c ∈ operandCells n a v, a.toNat ≤ c.1 ∧ c.1 < a.toNat + n.bytes := by
  cases n with
  | byte => simp [operandCells, Size.bytes]
  | wyde => have := aligned_wyde h; simp [operandCells, Size.bytes]; omega
  | quad => have := aligned_quad h; simp [operandCells, Size.bytes]; omega

/-- Reading an operand where it was just written gives its bits, zero-extended (R66). -/
theorem Memory.readOperand_writeCells (m : Memory) (n : Size) (a v : Word) :
    (m.writeCells (operandCells n a v)).readOperand n a = n.trunc v := by
  have e (i j : Nat) (hi : i < 4) (hj : j < 4) (hij : i ≠ j) :
      (a + BitVec.ofNat 32 i).toNat ≠ (a + BitVec.ofNat 32 j).toNat := by
    have := a.isLt
    simp [BitVec.toNat_add]; omega
  have e01 := e 0 1 (by omega) (by omega) (by omega)
  have e02 := e 0 2 (by omega) (by omega) (by omega)
  have e03 := e 0 3 (by omega) (by omega) (by omega)
  have e12 := e 1 2 (by omega) (by omega) (by omega)
  have e13 := e 1 3 (by omega) (by omega) (by omega)
  have e23 := e 2 3 (by omega) (by omega) (by omega)
  have z : a + BitVec.ofNat 32 0 = a := by simp
  rw [z] at e01 e02 e03
  cases n <;>
    simp only [operandCells, Memory.writeCells, List.foldl_cons, List.foldl_nil, Memory.readOperand, operandOf, Memory.byteAt, z,
      Memory.read_write, Size.trunc, if_true, e01.symm, e02.symm, e03.symm, e12.symm, e13.symm, e23.symm, if_false]
  · rw [← BitVec.setWidth_eq_extractLsb' (by decide)]
  · rw [BitVec.extractLsb'_append_extractLsb'_eq_extractLsb' (by rfl), ← BitVec.setWidth_eq_extractLsb' (by decide)]
  · rw [BitVec.extractLsb'_append_extractLsb'_eq_extractLsb' (by rfl),
      BitVec.extractLsb'_append_extractLsb'_eq_extractLsb' (by rfl),
      BitVec.extractLsb'_append_extractLsb'_eq_extractLsb' (by rfl)]
    simp

/-- An operand put together from bytes has them. -/
theorem operandByte_operandOf (n : Size) (f : Nat → Byte) {i : Nat} (h : i < n.bytes) :
    operandByte n (operandOf n f) i = f i := by
  refine BitVec.eq_of_getLsbD_eq fun j hj => ?_
  simp only [operandByte, BitVec.getLsbD_extractLsb', hj, decide_true, Bool.true_and]
  cases n <;> simp only [Size.bytes] at h <;> interval_cases i <;>
    simp only [operandOf, Size.bytes, BitVec.getLsbD_append, BitVec.getLsbD_setWidth] <;> grind

/-- An operand is put together from its bytes. -/
theorem operandOf_operandByte {n : Size} {v : Word} (h : n.trunc v = v) : operandOf n (operandByte n v) = v := by
  rw [← h]
  refine BitVec.eq_of_getLsbD_eq fun j hj => ?_
  cases n <;>
    simp only [operandOf, operandByte, Size.bytes, Size.trunc, BitVec.getLsbD_append, BitVec.getLsbD_setWidth,
      BitVec.getLsbD_extractLsb'] <;> grind

/-- Only the bytes of an operand count. -/
theorem operandOf_congr (n : Size) {f g : Nat → Byte} (h : ∀ i, i < n.bytes → f i = g i) :
    operandOf n f = operandOf n g := by
  cases n <;> simp_all [operandOf, Size.bytes]

/-- An operand put together from bytes has no higher bits. -/
theorem trunc_operandOf (n : Size) (f : Nat → Byte) : n.trunc (operandOf n f) = operandOf n f := by
  cases n <;> simp [Size.trunc, operandOf]

/-- The cells of an aligned operand: byte number `i` at the address plus `i` (R66). -/
theorem mem_operandCells {n : Size} {a v : Word} (h : aligned n a = true) {c : Host.Cell} :
    c ∈ operandCells n a v ↔ ∃ i, i < n.bytes ∧ c = (a.toNat + i, operandByte n v i) := by
  have hr : (∃ i, i < n.bytes ∧ c = (a.toNat + i, operandByte n v i)) ↔
      c ∈ (List.range n.bytes).map fun i => (a.toNat + i, operandByte n v i) := by
    simp [eq_comm]
  rw [hr]
  cases n with
  | byte => simp [operandCells, operandByte, Size.bytes, List.range_succ]
  | wyde => simp [operandCells, operandByte, Size.bytes, List.range_succ, aligned_wyde h]
  | quad => simp [operandCells, operandByte, Size.bytes, List.range_succ, aligned_quad h]

/-- The byte of an aligned operand that no wrap reaches (R66). -/
theorem Memory.byteAt_aligned (m : Memory) {n : Size} {a : Word} (h : aligned n a = true) {i : Nat} (hi : i < n.bytes) :
    m.byteAt a i = m.read (a.toNat + i) := by
  have := a.isLt
  have : a.toNat + i < 2 ^ 32 := by
    cases n <;> simp [aligned, Size.bytes] at h hi <;> omega
  simp only [Memory.byteAt, BitVec.toNat_add, BitVec.toNat_ofNat]
  congr 1; omega

/-! ## MEM_MAP (R62) -/

/-- An access meets nothing exactly where one byte of it has nothing. -/
theorem accessKind_eq_none {map : List Region} {n : Size} {a : Word} :
    accessKind map n a = none ↔ ∃ i, i < n.bytes ∧ kindAt map (a.toNat + i) = none := by
  simp only [accessKind, List.mem_map, List.mem_range]
  split
  · simpa
  · split <;> simp_all

/-- An access meets a device exactly where every byte of it has something and one byte is a device's. -/
theorem accessKind_eq_device {map : List Region} {n : Size} {a : Word} :
    accessKind map n a = some .device ↔ (¬ ∃ i, i < n.bytes ∧ kindAt map (a.toNat + i) = none) ∧
      ∃ i, i < n.bytes ∧ kindAt map (a.toNat + i) = some .device := by
  simp only [accessKind, List.mem_map, List.mem_range]
  split
  · simp_all
  · split <;> simp_all

/-- An access meets memory alone exactly where every byte of it is memory. -/
theorem accessKind_eq_memory {map : List Region} {n : Size} {a : Word} :
    accessKind map n a = some .memory ↔ ∀ i, i < n.bytes → kindAt map (a.toNat + i) = some .memory := by
  refine ⟨fun h i hi => ?_, fun h => ?_⟩
  · have hn := mt accessKind_eq_none.mpr (by simp [h] : ¬ accessKind map n a = none)
    have hd := mt accessKind_eq_device.mpr (by simp [h] : ¬ accessKind map n a = some .device)
    match hk : kindAt map (a.toNat + i) with
    | none => exact absurd ⟨i, hi, hk⟩ hn
    | some .memory => rfl
    | some .device => exact absurd ⟨hn, i, hi, hk⟩ hd
  · match hk : accessKind map n a with
    | none => obtain ⟨i, hi, e⟩ := accessKind_eq_none.mp hk; simp [h i hi] at e
    | some .memory => rfl
    | some .device => obtain ⟨-, i, hi, e⟩ := accessKind_eq_device.mp hk; simp [h i hi] at e

/-- The cells in memory are some of the cells. -/
theorem mem_memoryCells {map : List Region} {cells : List Host.Cell} {c : Host.Cell} :
    c ∈ memoryCells map cells ↔ c ∈ cells ∧ kindAt map c.1 = some .memory := by
  simp [memoryCells]

/-- After an operand's cells in memory are written, its bytes in memory are the operand's and its other bytes as before. -/
theorem Memory.read_writeCells_memoryCells (m : Memory) (map : List Region) {n : Size} {a : Word} (v : Word)
    (h : aligned n a = true) {i : Nat} (hi : i < n.bytes) :
    (m.writeCells (memoryCells map (operandCells n a v))).read (a.toNat + i) =
      if kindAt map (a.toNat + i) = some .memory then operandByte n v i else m.read (a.toNat + i) := by
  split
  · next hk =>
    refine Memory.read_writeCells_of_mem _ _ ?_ fun c hc he => ?_
    · exact ⟨(a.toNat + i, operandByte n v i), mem_memoryCells.mpr ⟨(mem_operandCells h).mpr ⟨i, hi, rfl⟩, hk⟩, rfl⟩
    · obtain ⟨j, hj, rfl⟩ := (mem_operandCells h).mp (mem_memoryCells.mp hc).1
      obtain rfl : j = i := by simpa using he
      rfl
  · next hk => exact Memory.read_writeCells_of_forall_ne _ _ _ fun c hc he => hk (he ▸ (mem_memoryCells.mp hc).2)

/-! ## The record of written addresses -/

/-- The record holds the address just marked, and what it held before. -/
theorem mem_markWritten (l : List Nat) (a b : Nat) : b ∈ markWritten l a ↔ b = a ∨ b ∈ l := by
  induction l with
  | nil => simp [markWritten]
  | cons x l ih =>
    by_cases h1 : a < x
    · simp [markWritten, h1]
    · by_cases h2 : a = x
      · simp [markWritten, h2]
      · simp [markWritten, h1, h2, ih]; tauto

/-- Marking keeps the record's form. -/
theorem writtenWf_markWritten {l : List Nat} (h : writtenWf l) {a : Nat} (ha : a < 2 ^ 32) :
    writtenWf (markWritten l a) := by
  refine ⟨?_, fun b hb => ?_⟩
  · have hp := h.1
    clear h
    induction l with
    | nil => simp [markWritten]
    | cons x l ih =>
      have hx := List.pairwise_cons.mp hp
      by_cases h1 : a < x
      · simp only [markWritten, h1, if_true]
        refine List.pairwise_cons.mpr ⟨fun e he => ?_, hp⟩
        rcases List.mem_cons.mp he with rfl | he
        · exact h1
        · exact Nat.lt_trans h1 (hx.1 e he)
      · by_cases h2 : a = x
        · simpa [markWritten, h2] using hp
        · simp only [markWritten, h1, h2, if_false]
          refine List.pairwise_cons.mpr ⟨fun e he => ?_, ih hx.2⟩
          rcases (mem_markWritten _ _ _).mp he with rfl | he
          · omega
          · exact hx.1 e he
  · rcases (mem_markWritten _ _ _).mp hb with rfl | hb
    · exact ha
    · exact h.2 b hb

/-- After an operand's cells are marked, the record holds their addresses and what it held before. -/
theorem mem_markCells (l : List Nat) (cells : List Host.Cell) (b : Nat) :
    b ∈ markCells l cells ↔ b ∈ l ∨ ∃ c ∈ cells, c.1 = b := by
  induction cells generalizing l with
  | nil => simp [markCells]
  | cons c cells ih =>
    have : markCells l (c :: cells) = markCells (markWritten l c.1) cells := rfl
    rw [this, ih, mem_markWritten]
    simp only [List.mem_cons, exists_eq_or_imp]
    tauto

/-- Marking an operand's cells keeps the record's form. -/
theorem writtenWf_markCells {l : List Nat} (h : writtenWf l) (cells : List Host.Cell) (hc : ∀ c ∈ cells, c.1 < 2 ^ 32) :
    writtenWf (markCells l cells) := by
  induction cells generalizing l with
  | nil => exact h
  | cons c cells ih => exact ih (writtenWf_markWritten h (hc c (by simp))) fun d hd => hc d (by simp [hd])

end Sys2Proof.Machine
end

