-- ==== Sys2Proof/Laws/State.lean ====
section
/-! SUPPORT. What each named update of the state does to each field: one lemma per field per update, true by `rfl`, so that
no proof unfolds a record update. -/

namespace Sys2Proof.Machine

/-! ## `State.setReg` -/

@[simp] theorem State.setReg_regs (s : State) (r : RegNo) (v : Word) : (s.setReg r v).regs = s.regs.setIfInBounds r.toNat v := rfl
@[simp] theorem State.setReg_pc (s : State) (r : RegNo) (v : Word) : (s.setReg r v).pc = s.pc := rfl
@[simp] theorem State.setReg_rs (s : State) (r : RegNo) (v : Word) : (s.setReg r v).rs = s.rs := rfl
@[simp] theorem State.setReg_skipNext (s : State) (r : RegNo) (v : Word) : (s.setReg r v).skipNext = s.skipNext := rfl
@[simp] theorem State.setReg_skipKind (s : State) (r : RegNo) (v : Word) : (s.setReg r v).skipKind = s.skipKind := rfl
@[simp] theorem State.setReg_sv (s : State) (r : RegNo) (v : Word) : (s.setReg r v).sv = s.sv := rfl
@[simp] theorem State.setReg_delayTarget (s : State) (r : RegNo) (v : Word) : (s.setReg r v).delayTarget = s.delayTarget := rfl
@[simp] theorem State.setReg_ie (s : State) (r : RegNo) (v : Word) : (s.setReg r v).ie = s.ie := rfl
@[simp] theorem State.setReg_sr (s : State) (r : RegNo) (v : Word) : (s.setReg r v).sr = s.sr := rfl
@[simp] theorem State.setReg_mem (s : State) (r : RegNo) (v : Word) : (s.setReg r v).mem = s.mem := rfl
@[simp] theorem State.setReg_written (s : State) (r : RegNo) (v : Word) : (s.setReg r v).written = s.written := rfl
@[simp] theorem State.setReg_plat (s : State) (r : RegNo) (v : Word) : (s.setReg r v).plat = s.plat := rfl
@[simp] theorem State.setReg_flagIn (s : State) (r : RegNo) (v : Word) : (s.setReg r v).flagIn = s.flagIn := rfl
@[simp] theorem State.setReg_flagCount (s : State) (r : RegNo) (v : Word) : (s.setReg r v).flagCount = s.flagCount := rfl
@[simp] theorem State.setReg_devIn (s : State) (r : RegNo) (v : Word) : (s.setReg r v).devIn = s.devIn := rfl
@[simp] theorem State.setReg_devCount (s : State) (r : RegNo) (v : Word) : (s.setReg r v).devCount = s.devCount := rfl
@[simp] theorem State.setReg_devLog (s : State) (r : RegNo) (v : Word) : (s.setReg r v).devLog = s.devLog := rfl

/-! ## `State.setPc` -/

@[simp] theorem State.setPc_regs (s : State) (a : Word) : (s.setPc a).regs = s.regs := rfl
@[simp] theorem State.setPc_pc (s : State) (a : Word) : (s.setPc a).pc = a := rfl
@[simp] theorem State.setPc_rs (s : State) (a : Word) : (s.setPc a).rs = s.rs := rfl
@[simp] theorem State.setPc_skipNext (s : State) (a : Word) : (s.setPc a).skipNext = s.skipNext := rfl
@[simp] theorem State.setPc_skipKind (s : State) (a : Word) : (s.setPc a).skipKind = s.skipKind := rfl
@[simp] theorem State.setPc_sv (s : State) (a : Word) : (s.setPc a).sv = s.sv := rfl
@[simp] theorem State.setPc_delayTarget (s : State) (a : Word) : (s.setPc a).delayTarget = s.delayTarget := rfl
@[simp] theorem State.setPc_ie (s : State) (a : Word) : (s.setPc a).ie = s.ie := rfl
@[simp] theorem State.setPc_sr (s : State) (a : Word) : (s.setPc a).sr = s.sr := rfl
@[simp] theorem State.setPc_mem (s : State) (a : Word) : (s.setPc a).mem = s.mem := rfl
@[simp] theorem State.setPc_written (s : State) (a : Word) : (s.setPc a).written = s.written := rfl
@[simp] theorem State.setPc_plat (s : State) (a : Word) : (s.setPc a).plat = s.plat := rfl
@[simp] theorem State.setPc_flagIn (s : State) (a : Word) : (s.setPc a).flagIn = s.flagIn := rfl
@[simp] theorem State.setPc_flagCount (s : State) (a : Word) : (s.setPc a).flagCount = s.flagCount := rfl
@[simp] theorem State.setPc_devIn (s : State) (a : Word) : (s.setPc a).devIn = s.devIn := rfl
@[simp] theorem State.setPc_devCount (s : State) (a : Word) : (s.setPc a).devCount = s.devCount := rfl
@[simp] theorem State.setPc_devLog (s : State) (a : Word) : (s.setPc a).devLog = s.devLog := rfl
@[simp] theorem State.setPc_fp (s : State) (a : Word) : (s.setPc a).fp = s.fp := rfl
@[simp] theorem State.setPc_sp (s : State) (a : Word) : (s.setPc a).sp = s.sp := rfl
@[simp] theorem State.setPc_imm (s : State) (a : Word) : (s.setPc a).imm = s.imm := rfl
@[simp] theorem State.setPc_reg? (s : State) (a : Word) (i : RegNo) : (s.setPc a).reg? i = s.reg? i := rfl

/-! ## `State.setRs` -/

@[simp] theorem State.setRs_regs (s : State) (l : List Word) : (s.setRs l).regs = s.regs := rfl
@[simp] theorem State.setRs_pc (s : State) (l : List Word) : (s.setRs l).pc = s.pc := rfl
@[simp] theorem State.setRs_rs (s : State) (l : List Word) : (s.setRs l).rs = l := rfl
@[simp] theorem State.setRs_skipNext (s : State) (l : List Word) : (s.setRs l).skipNext = s.skipNext := rfl
@[simp] theorem State.setRs_skipKind (s : State) (l : List Word) : (s.setRs l).skipKind = s.skipKind := rfl
@[simp] theorem State.setRs_sv (s : State) (l : List Word) : (s.setRs l).sv = s.sv := rfl
@[simp] theorem State.setRs_delayTarget (s : State) (l : List Word) : (s.setRs l).delayTarget = s.delayTarget := rfl
@[simp] theorem State.setRs_ie (s : State) (l : List Word) : (s.setRs l).ie = s.ie := rfl
@[simp] theorem State.setRs_sr (s : State) (l : List Word) : (s.setRs l).sr = s.sr := rfl
@[simp] theorem State.setRs_mem (s : State) (l : List Word) : (s.setRs l).mem = s.mem := rfl
@[simp] theorem State.setRs_written (s : State) (l : List Word) : (s.setRs l).written = s.written := rfl
@[simp] theorem State.setRs_plat (s : State) (l : List Word) : (s.setRs l).plat = s.plat := rfl
@[simp] theorem State.setRs_flagIn (s : State) (l : List Word) : (s.setRs l).flagIn = s.flagIn := rfl
@[simp] theorem State.setRs_flagCount (s : State) (l : List Word) : (s.setRs l).flagCount = s.flagCount := rfl
@[simp] theorem State.setRs_devIn (s : State) (l : List Word) : (s.setRs l).devIn = s.devIn := rfl
@[simp] theorem State.setRs_devCount (s : State) (l : List Word) : (s.setRs l).devCount = s.devCount := rfl
@[simp] theorem State.setRs_devLog (s : State) (l : List Word) : (s.setRs l).devLog = s.devLog := rfl
@[simp] theorem State.setRs_fp (s : State) (l : List Word) : (s.setRs l).fp = s.fp := rfl
@[simp] theorem State.setRs_sp (s : State) (l : List Word) : (s.setRs l).sp = s.sp := rfl
@[simp] theorem State.setRs_imm (s : State) (l : List Word) : (s.setRs l).imm = s.imm := rfl
@[simp] theorem State.setRs_reg? (s : State) (l : List Word) (i : RegNo) : (s.setRs l).reg? i = s.reg? i := rfl

/-! ## `State.setIe` -/

@[simp] theorem State.setIe_regs (s : State) (b : Bool) : (s.setIe b).regs = s.regs := rfl
@[simp] theorem State.setIe_pc (s : State) (b : Bool) : (s.setIe b).pc = s.pc := rfl
@[simp] theorem State.setIe_rs (s : State) (b : Bool) : (s.setIe b).rs = s.rs := rfl
@[simp] theorem State.setIe_skipNext (s : State) (b : Bool) : (s.setIe b).skipNext = s.skipNext := rfl
@[simp] theorem State.setIe_skipKind (s : State) (b : Bool) : (s.setIe b).skipKind = s.skipKind := rfl
@[simp] theorem State.setIe_sv (s : State) (b : Bool) : (s.setIe b).sv = s.sv := rfl
@[simp] theorem State.setIe_delayTarget (s : State) (b : Bool) : (s.setIe b).delayTarget = s.delayTarget := rfl
@[simp] theorem State.setIe_ie (s : State) (b : Bool) : (s.setIe b).ie = b := rfl
@[simp] theorem State.setIe_sr (s : State) (b : Bool) : (s.setIe b).sr = s.sr := rfl
@[simp] theorem State.setIe_mem (s : State) (b : Bool) : (s.setIe b).mem = s.mem := rfl
@[simp] theorem State.setIe_written (s : State) (b : Bool) : (s.setIe b).written = s.written := rfl
@[simp] theorem State.setIe_plat (s : State) (b : Bool) : (s.setIe b).plat = s.plat := rfl
@[simp] theorem State.setIe_flagIn (s : State) (b : Bool) : (s.setIe b).flagIn = s.flagIn := rfl
@[simp] theorem State.setIe_flagCount (s : State) (b : Bool) : (s.setIe b).flagCount = s.flagCount := rfl
@[simp] theorem State.setIe_devIn (s : State) (b : Bool) : (s.setIe b).devIn = s.devIn := rfl
@[simp] theorem State.setIe_devCount (s : State) (b : Bool) : (s.setIe b).devCount = s.devCount := rfl
@[simp] theorem State.setIe_devLog (s : State) (b : Bool) : (s.setIe b).devLog = s.devLog := rfl
@[simp] theorem State.setIe_fp (s : State) (b : Bool) : (s.setIe b).fp = s.fp := rfl
@[simp] theorem State.setIe_sp (s : State) (b : Bool) : (s.setIe b).sp = s.sp := rfl
@[simp] theorem State.setIe_imm (s : State) (b : Bool) : (s.setIe b).imm = s.imm := rfl
@[simp] theorem State.setIe_reg? (s : State) (b : Bool) (i : RegNo) : (s.setIe b).reg? i = s.reg? i := rfl

/-! ## `State.setSkip` -/

@[simp] theorem State.setSkip_regs (s : State) (b : Bool) (k : SkipKind) : (s.setSkip b k).regs = s.regs := rfl
@[simp] theorem State.setSkip_pc (s : State) (b : Bool) (k : SkipKind) : (s.setSkip b k).pc = s.pc := rfl
@[simp] theorem State.setSkip_rs (s : State) (b : Bool) (k : SkipKind) : (s.setSkip b k).rs = s.rs := rfl
@[simp] theorem State.setSkip_skipNext (s : State) (b : Bool) (k : SkipKind) : (s.setSkip b k).skipNext = b := rfl
@[simp] theorem State.setSkip_skipKind (s : State) (b : Bool) (k : SkipKind) : (s.setSkip b k).skipKind = k := rfl
@[simp] theorem State.setSkip_sv (s : State) (b : Bool) (k : SkipKind) : (s.setSkip b k).sv = s.sv := rfl
@[simp] theorem State.setSkip_delayTarget (s : State) (b : Bool) (k : SkipKind) : (s.setSkip b k).delayTarget = s.delayTarget := rfl
@[simp] theorem State.setSkip_ie (s : State) (b : Bool) (k : SkipKind) : (s.setSkip b k).ie = s.ie := rfl
@[simp] theorem State.setSkip_sr (s : State) (b : Bool) (k : SkipKind) : (s.setSkip b k).sr = s.sr := rfl
@[simp] theorem State.setSkip_mem (s : State) (b : Bool) (k : SkipKind) : (s.setSkip b k).mem = s.mem := rfl
@[simp] theorem State.setSkip_written (s : State) (b : Bool) (k : SkipKind) : (s.setSkip b k).written = s.written := rfl
@[simp] theorem State.setSkip_plat (s : State) (b : Bool) (k : SkipKind) : (s.setSkip b k).plat = s.plat := rfl
@[simp] theorem State.setSkip_flagIn (s : State) (b : Bool) (k : SkipKind) : (s.setSkip b k).flagIn = s.flagIn := rfl
@[simp] theorem State.setSkip_flagCount (s : State) (b : Bool) (k : SkipKind) : (s.setSkip b k).flagCount = s.flagCount := rfl
@[simp] theorem State.setSkip_devIn (s : State) (b : Bool) (k : SkipKind) : (s.setSkip b k).devIn = s.devIn := rfl
@[simp] theorem State.setSkip_devCount (s : State) (b : Bool) (k : SkipKind) : (s.setSkip b k).devCount = s.devCount := rfl
@[simp] theorem State.setSkip_devLog (s : State) (b : Bool) (k : SkipKind) : (s.setSkip b k).devLog = s.devLog := rfl
@[simp] theorem State.setSkip_fp (s : State) (b : Bool) (k : SkipKind) : (s.setSkip b k).fp = s.fp := rfl
@[simp] theorem State.setSkip_sp (s : State) (b : Bool) (k : SkipKind) : (s.setSkip b k).sp = s.sp := rfl
@[simp] theorem State.setSkip_imm (s : State) (b : Bool) (k : SkipKind) : (s.setSkip b k).imm = s.imm := rfl
@[simp] theorem State.setSkip_reg? (s : State) (b : Bool) (k : SkipKind) (i : RegNo) : (s.setSkip b k).reg? i = s.reg? i := rfl

/-! ## `State.setSv` -/

@[simp] theorem State.setSv_regs (s : State) (v : BitVec 8) : (s.setSv v).regs = s.regs := rfl
@[simp] theorem State.setSv_pc (s : State) (v : BitVec 8) : (s.setSv v).pc = s.pc := rfl
@[simp] theorem State.setSv_rs (s : State) (v : BitVec 8) : (s.setSv v).rs = s.rs := rfl
@[simp] theorem State.setSv_skipNext (s : State) (v : BitVec 8) : (s.setSv v).skipNext = s.skipNext := rfl
@[simp] theorem State.setSv_skipKind (s : State) (v : BitVec 8) : (s.setSv v).skipKind = s.skipKind := rfl
@[simp] theorem State.setSv_sv (s : State) (v : BitVec 8) : (s.setSv v).sv = v := rfl
@[simp] theorem State.setSv_delayTarget (s : State) (v : BitVec 8) : (s.setSv v).delayTarget = s.delayTarget := rfl
@[simp] theorem State.setSv_ie (s : State) (v : BitVec 8) : (s.setSv v).ie = s.ie := rfl
@[simp] theorem State.setSv_sr (s : State) (v : BitVec 8) : (s.setSv v).sr = s.sr := rfl
@[simp] theorem State.setSv_mem (s : State) (v : BitVec 8) : (s.setSv v).mem = s.mem := rfl
@[simp] theorem State.setSv_written (s : State) (v : BitVec 8) : (s.setSv v).written = s.written := rfl
@[simp] theorem State.setSv_plat (s : State) (v : BitVec 8) : (s.setSv v).plat = s.plat := rfl
@[simp] theorem State.setSv_flagIn (s : State) (v : BitVec 8) : (s.setSv v).flagIn = s.flagIn := rfl
@[simp] theorem State.setSv_flagCount (s : State) (v : BitVec 8) : (s.setSv v).flagCount = s.flagCount := rfl
@[simp] theorem State.setSv_devIn (s : State) (v : BitVec 8) : (s.setSv v).devIn = s.devIn := rfl
@[simp] theorem State.setSv_devCount (s : State) (v : BitVec 8) : (s.setSv v).devCount = s.devCount := rfl
@[simp] theorem State.setSv_devLog (s : State) (v : BitVec 8) : (s.setSv v).devLog = s.devLog := rfl
@[simp] theorem State.setSv_fp (s : State) (v : BitVec 8) : (s.setSv v).fp = s.fp := rfl
@[simp] theorem State.setSv_sp (s : State) (v : BitVec 8) : (s.setSv v).sp = s.sp := rfl
@[simp] theorem State.setSv_imm (s : State) (v : BitVec 8) : (s.setSv v).imm = s.imm := rfl
@[simp] theorem State.setSv_reg? (s : State) (v : BitVec 8) (i : RegNo) : (s.setSv v).reg? i = s.reg? i := rfl

/-! ## `State.setDelay` -/

@[simp] theorem State.setDelay_regs (s : State) (d : Option Word) : (s.setDelay d).regs = s.regs := rfl
@[simp] theorem State.setDelay_pc (s : State) (d : Option Word) : (s.setDelay d).pc = s.pc := rfl
@[simp] theorem State.setDelay_rs (s : State) (d : Option Word) : (s.setDelay d).rs = s.rs := rfl
@[simp] theorem State.setDelay_skipNext (s : State) (d : Option Word) : (s.setDelay d).skipNext = s.skipNext := rfl
@[simp] theorem State.setDelay_skipKind (s : State) (d : Option Word) : (s.setDelay d).skipKind = s.skipKind := rfl
@[simp] theorem State.setDelay_sv (s : State) (d : Option Word) : (s.setDelay d).sv = s.sv := rfl
@[simp] theorem State.setDelay_delayTarget (s : State) (d : Option Word) : (s.setDelay d).delayTarget = d := rfl
@[simp] theorem State.setDelay_ie (s : State) (d : Option Word) : (s.setDelay d).ie = s.ie := rfl
@[simp] theorem State.setDelay_sr (s : State) (d : Option Word) : (s.setDelay d).sr = s.sr := rfl
@[simp] theorem State.setDelay_mem (s : State) (d : Option Word) : (s.setDelay d).mem = s.mem := rfl
@[simp] theorem State.setDelay_written (s : State) (d : Option Word) : (s.setDelay d).written = s.written := rfl
@[simp] theorem State.setDelay_plat (s : State) (d : Option Word) : (s.setDelay d).plat = s.plat := rfl
@[simp] theorem State.setDelay_flagIn (s : State) (d : Option Word) : (s.setDelay d).flagIn = s.flagIn := rfl
@[simp] theorem State.setDelay_flagCount (s : State) (d : Option Word) : (s.setDelay d).flagCount = s.flagCount := rfl
@[simp] theorem State.setDelay_devIn (s : State) (d : Option Word) : (s.setDelay d).devIn = s.devIn := rfl
@[simp] theorem State.setDelay_devCount (s : State) (d : Option Word) : (s.setDelay d).devCount = s.devCount := rfl
@[simp] theorem State.setDelay_devLog (s : State) (d : Option Word) : (s.setDelay d).devLog = s.devLog := rfl
@[simp] theorem State.setDelay_fp (s : State) (d : Option Word) : (s.setDelay d).fp = s.fp := rfl
@[simp] theorem State.setDelay_sp (s : State) (d : Option Word) : (s.setDelay d).sp = s.sp := rfl
@[simp] theorem State.setDelay_imm (s : State) (d : Option Word) : (s.setDelay d).imm = s.imm := rfl
@[simp] theorem State.setDelay_reg? (s : State) (d : Option Word) (i : RegNo) : (s.setDelay d).reg? i = s.reg? i := rfl

/-! ## `State.storeCells` -/

@[simp] theorem State.storeCells_regs (s : State) (c : List Host.Cell) : (s.storeCells c).regs = s.regs := rfl
@[simp] theorem State.storeCells_pc (s : State) (c : List Host.Cell) : (s.storeCells c).pc = s.pc := rfl
@[simp] theorem State.storeCells_rs (s : State) (c : List Host.Cell) : (s.storeCells c).rs = s.rs := rfl
@[simp] theorem State.storeCells_skipNext (s : State) (c : List Host.Cell) : (s.storeCells c).skipNext = s.skipNext := rfl
@[simp] theorem State.storeCells_skipKind (s : State) (c : List Host.Cell) : (s.storeCells c).skipKind = s.skipKind := rfl
@[simp] theorem State.storeCells_sv (s : State) (c : List Host.Cell) : (s.storeCells c).sv = s.sv := rfl
@[simp] theorem State.storeCells_delayTarget (s : State) (c : List Host.Cell) : (s.storeCells c).delayTarget = s.delayTarget := rfl
@[simp] theorem State.storeCells_ie (s : State) (c : List Host.Cell) : (s.storeCells c).ie = s.ie := rfl
@[simp] theorem State.storeCells_sr (s : State) (c : List Host.Cell) : (s.storeCells c).sr = s.sr := rfl
@[simp] theorem State.storeCells_mem (s : State) (c : List Host.Cell) : (s.storeCells c).mem = s.mem.writeCells c := rfl
@[simp] theorem State.storeCells_written (s : State) (c : List Host.Cell) : (s.storeCells c).written = markCells s.written c := rfl
@[simp] theorem State.storeCells_plat (s : State) (c : List Host.Cell) : (s.storeCells c).plat = s.plat := rfl
@[simp] theorem State.storeCells_flagIn (s : State) (c : List Host.Cell) : (s.storeCells c).flagIn = s.flagIn := rfl
@[simp] theorem State.storeCells_flagCount (s : State) (c : List Host.Cell) : (s.storeCells c).flagCount = s.flagCount := rfl
@[simp] theorem State.storeCells_devIn (s : State) (c : List Host.Cell) : (s.storeCells c).devIn = s.devIn := rfl
@[simp] theorem State.storeCells_devCount (s : State) (c : List Host.Cell) : (s.storeCells c).devCount = s.devCount := rfl
@[simp] theorem State.storeCells_devLog (s : State) (c : List Host.Cell) : (s.storeCells c).devLog = s.devLog := rfl
@[simp] theorem State.storeCells_fp (s : State) (c : List Host.Cell) : (s.storeCells c).fp = s.fp := rfl
@[simp] theorem State.storeCells_sp (s : State) (c : List Host.Cell) : (s.storeCells c).sp = s.sp := rfl
@[simp] theorem State.storeCells_imm (s : State) (c : List Host.Cell) : (s.storeCells c).imm = s.imm := rfl
@[simp] theorem State.storeCells_reg? (s : State) (c : List Host.Cell) (i : RegNo) : (s.storeCells c).reg? i = s.reg? i := rfl

/-! ## `State.markDevice` -/

@[simp] theorem State.markDevice_regs (s : State) (c : List Host.Cell) : (s.markDevice c).regs = s.regs := rfl
@[simp] theorem State.markDevice_pc (s : State) (c : List Host.Cell) : (s.markDevice c).pc = s.pc := rfl
@[simp] theorem State.markDevice_rs (s : State) (c : List Host.Cell) : (s.markDevice c).rs = s.rs := rfl
@[simp] theorem State.markDevice_skipNext (s : State) (c : List Host.Cell) : (s.markDevice c).skipNext = s.skipNext := rfl
@[simp] theorem State.markDevice_skipKind (s : State) (c : List Host.Cell) : (s.markDevice c).skipKind = s.skipKind := rfl
@[simp] theorem State.markDevice_sv (s : State) (c : List Host.Cell) : (s.markDevice c).sv = s.sv := rfl
@[simp] theorem State.markDevice_delayTarget (s : State) (c : List Host.Cell) : (s.markDevice c).delayTarget = s.delayTarget := rfl
@[simp] theorem State.markDevice_ie (s : State) (c : List Host.Cell) : (s.markDevice c).ie = s.ie := rfl
@[simp] theorem State.markDevice_sr (s : State) (c : List Host.Cell) : (s.markDevice c).sr = s.sr := rfl
@[simp] theorem State.markDevice_mem (s : State) (c : List Host.Cell) : (s.markDevice c).mem = s.mem := rfl
@[simp] theorem State.markDevice_written (s : State) (c : List Host.Cell) : (s.markDevice c).written = markCells s.written c := rfl
@[simp] theorem State.markDevice_plat (s : State) (c : List Host.Cell) : (s.markDevice c).plat = s.plat := rfl
@[simp] theorem State.markDevice_flagIn (s : State) (c : List Host.Cell) : (s.markDevice c).flagIn = s.flagIn := rfl
@[simp] theorem State.markDevice_flagCount (s : State) (c : List Host.Cell) : (s.markDevice c).flagCount = s.flagCount := rfl
@[simp] theorem State.markDevice_devIn (s : State) (c : List Host.Cell) : (s.markDevice c).devIn = s.devIn := rfl
@[simp] theorem State.markDevice_devCount (s : State) (c : List Host.Cell) : (s.markDevice c).devCount = s.devCount := rfl
@[simp] theorem State.markDevice_devLog (s : State) (c : List Host.Cell) : (s.markDevice c).devLog = s.devLog := rfl
@[simp] theorem State.markDevice_fp (s : State) (c : List Host.Cell) : (s.markDevice c).fp = s.fp := rfl
@[simp] theorem State.markDevice_sp (s : State) (c : List Host.Cell) : (s.markDevice c).sp = s.sp := rfl
@[simp] theorem State.markDevice_imm (s : State) (c : List Host.Cell) : (s.markDevice c).imm = s.imm := rfl
@[simp] theorem State.markDevice_reg? (s : State) (c : List Host.Cell) (i : RegNo) : (s.markDevice c).reg? i = s.reg? i := rfl

/-! ## `State.logDevice` -/

@[simp] theorem State.logDevice_regs (s : State) (e : DeviceEvent) : (s.logDevice e).regs = s.regs := rfl
@[simp] theorem State.logDevice_pc (s : State) (e : DeviceEvent) : (s.logDevice e).pc = s.pc := rfl
@[simp] theorem State.logDevice_rs (s : State) (e : DeviceEvent) : (s.logDevice e).rs = s.rs := rfl
@[simp] theorem State.logDevice_skipNext (s : State) (e : DeviceEvent) : (s.logDevice e).skipNext = s.skipNext := rfl
@[simp] theorem State.logDevice_skipKind (s : State) (e : DeviceEvent) : (s.logDevice e).skipKind = s.skipKind := rfl
@[simp] theorem State.logDevice_sv (s : State) (e : DeviceEvent) : (s.logDevice e).sv = s.sv := rfl
@[simp] theorem State.logDevice_delayTarget (s : State) (e : DeviceEvent) : (s.logDevice e).delayTarget = s.delayTarget := rfl
@[simp] theorem State.logDevice_ie (s : State) (e : DeviceEvent) : (s.logDevice e).ie = s.ie := rfl
@[simp] theorem State.logDevice_sr (s : State) (e : DeviceEvent) : (s.logDevice e).sr = s.sr := rfl
@[simp] theorem State.logDevice_mem (s : State) (e : DeviceEvent) : (s.logDevice e).mem = s.mem := rfl
@[simp] theorem State.logDevice_written (s : State) (e : DeviceEvent) : (s.logDevice e).written = s.written := rfl
@[simp] theorem State.logDevice_plat (s : State) (e : DeviceEvent) : (s.logDevice e).plat = s.plat := rfl
@[simp] theorem State.logDevice_flagIn (s : State) (e : DeviceEvent) : (s.logDevice e).flagIn = s.flagIn := rfl
@[simp] theorem State.logDevice_flagCount (s : State) (e : DeviceEvent) : (s.logDevice e).flagCount = s.flagCount := rfl
@[simp] theorem State.logDevice_devIn (s : State) (e : DeviceEvent) : (s.logDevice e).devIn = s.devIn := rfl
@[simp] theorem State.logDevice_devCount (s : State) (e : DeviceEvent) : (s.logDevice e).devCount = s.devCount := rfl
@[simp] theorem State.logDevice_devLog (s : State) (e : DeviceEvent) : (s.logDevice e).devLog = s.devLog ++ [e] := rfl
@[simp] theorem State.logDevice_fp (s : State) (e : DeviceEvent) : (s.logDevice e).fp = s.fp := rfl
@[simp] theorem State.logDevice_sp (s : State) (e : DeviceEvent) : (s.logDevice e).sp = s.sp := rfl
@[simp] theorem State.logDevice_imm (s : State) (e : DeviceEvent) : (s.logDevice e).imm = s.imm := rfl
@[simp] theorem State.logDevice_reg? (s : State) (e : DeviceEvent) (i : RegNo) : (s.logDevice e).reg? i = s.reg? i := rfl

/-! ## `State.tookFlag` -/

@[simp] theorem State.tookFlag_regs (s : State) : s.tookFlag.regs = s.regs := rfl
@[simp] theorem State.tookFlag_pc (s : State) : s.tookFlag.pc = s.pc := rfl
@[simp] theorem State.tookFlag_rs (s : State) : s.tookFlag.rs = s.rs := rfl
@[simp] theorem State.tookFlag_skipNext (s : State) : s.tookFlag.skipNext = s.skipNext := rfl
@[simp] theorem State.tookFlag_skipKind (s : State) : s.tookFlag.skipKind = s.skipKind := rfl
@[simp] theorem State.tookFlag_sv (s : State) : s.tookFlag.sv = s.sv := rfl
@[simp] theorem State.tookFlag_delayTarget (s : State) : s.tookFlag.delayTarget = s.delayTarget := rfl
@[simp] theorem State.tookFlag_ie (s : State) : s.tookFlag.ie = s.ie := rfl
@[simp] theorem State.tookFlag_sr (s : State) : s.tookFlag.sr = s.sr := rfl
@[simp] theorem State.tookFlag_mem (s : State) : s.tookFlag.mem = s.mem := rfl
@[simp] theorem State.tookFlag_written (s : State) : s.tookFlag.written = s.written := rfl
@[simp] theorem State.tookFlag_plat (s : State) : s.tookFlag.plat = s.plat := rfl
@[simp] theorem State.tookFlag_flagIn (s : State) : s.tookFlag.flagIn = s.flagIn.tail := rfl
@[simp] theorem State.tookFlag_flagCount (s : State) : s.tookFlag.flagCount = s.flagCount + 1 := rfl
@[simp] theorem State.tookFlag_devIn (s : State) : s.tookFlag.devIn = s.devIn := rfl
@[simp] theorem State.tookFlag_devCount (s : State) : s.tookFlag.devCount = s.devCount := rfl
@[simp] theorem State.tookFlag_devLog (s : State) : s.tookFlag.devLog = s.devLog := rfl
@[simp] theorem State.tookFlag_fp (s : State) : s.tookFlag.fp = s.fp := rfl
@[simp] theorem State.tookFlag_sp (s : State) : s.tookFlag.sp = s.sp := rfl
@[simp] theorem State.tookFlag_imm (s : State) : s.tookFlag.imm = s.imm := rfl
@[simp] theorem State.tookFlag_reg? (s : State) (i : RegNo) : s.tookFlag.reg? i = s.reg? i := rfl

/-! ## `State.tookDevice` -/

@[simp] theorem State.tookDevice_regs (s : State) : s.tookDevice.regs = s.regs := rfl
@[simp] theorem State.tookDevice_pc (s : State) : s.tookDevice.pc = s.pc := rfl
@[simp] theorem State.tookDevice_rs (s : State) : s.tookDevice.rs = s.rs := rfl
@[simp] theorem State.tookDevice_skipNext (s : State) : s.tookDevice.skipNext = s.skipNext := rfl
@[simp] theorem State.tookDevice_skipKind (s : State) : s.tookDevice.skipKind = s.skipKind := rfl
@[simp] theorem State.tookDevice_sv (s : State) : s.tookDevice.sv = s.sv := rfl
@[simp] theorem State.tookDevice_delayTarget (s : State) : s.tookDevice.delayTarget = s.delayTarget := rfl
@[simp] theorem State.tookDevice_ie (s : State) : s.tookDevice.ie = s.ie := rfl
@[simp] theorem State.tookDevice_sr (s : State) : s.tookDevice.sr = s.sr := rfl
@[simp] theorem State.tookDevice_mem (s : State) : s.tookDevice.mem = s.mem := rfl
@[simp] theorem State.tookDevice_written (s : State) : s.tookDevice.written = s.written := rfl
@[simp] theorem State.tookDevice_plat (s : State) : s.tookDevice.plat = s.plat := rfl
@[simp] theorem State.tookDevice_flagIn (s : State) : s.tookDevice.flagIn = s.flagIn := rfl
@[simp] theorem State.tookDevice_flagCount (s : State) : s.tookDevice.flagCount = s.flagCount := rfl
@[simp] theorem State.tookDevice_devIn (s : State) : s.tookDevice.devIn = s.devIn.tail := rfl
@[simp] theorem State.tookDevice_devCount (s : State) : s.tookDevice.devCount = s.devCount + 1 := rfl
@[simp] theorem State.tookDevice_devLog (s : State) : s.tookDevice.devLog = s.devLog := rfl
@[simp] theorem State.tookDevice_fp (s : State) : s.tookDevice.fp = s.fp := rfl
@[simp] theorem State.tookDevice_sp (s : State) : s.tookDevice.sp = s.sp := rfl
@[simp] theorem State.tookDevice_imm (s : State) : s.tookDevice.imm = s.imm := rfl
@[simp] theorem State.tookDevice_reg? (s : State) (i : RegNo) : s.tookDevice.reg? i = s.reg? i := rfl

/-! ## `State.enter` -/

@[simp] theorem State.enter_regs (s : State) : s.enter.regs = s.regs := rfl
@[simp] theorem State.enter_pc (s : State) : s.enter.pc = s.pc := rfl
@[simp] theorem State.enter_rs (s : State) : s.enter.rs = s.rs := rfl
@[simp] theorem State.enter_skipNext (s : State) : s.enter.skipNext = false := rfl
@[simp] theorem State.enter_skipKind (s : State) : s.enter.skipKind = .none := rfl
@[simp] theorem State.enter_sv (s : State) : s.enter.sv = s.sv <<< 1 := rfl
@[simp] theorem State.enter_delayTarget (s : State) : s.enter.delayTarget = none := rfl
@[simp] theorem State.enter_ie (s : State) : s.enter.ie = s.ie := rfl
@[simp] theorem State.enter_sr (s : State) : s.enter.sr = s.sr := rfl
@[simp] theorem State.enter_mem (s : State) : s.enter.mem = s.mem := rfl
@[simp] theorem State.enter_written (s : State) : s.enter.written = s.written := rfl
@[simp] theorem State.enter_plat (s : State) : s.enter.plat = s.plat := rfl
@[simp] theorem State.enter_flagIn (s : State) : s.enter.flagIn = s.flagIn := rfl
@[simp] theorem State.enter_flagCount (s : State) : s.enter.flagCount = s.flagCount := rfl
@[simp] theorem State.enter_devIn (s : State) : s.enter.devIn = s.devIn := rfl
@[simp] theorem State.enter_devCount (s : State) : s.enter.devCount = s.devCount := rfl
@[simp] theorem State.enter_devLog (s : State) : s.enter.devLog = s.devLog := rfl
@[simp] theorem State.enter_fp (s : State) : s.enter.fp = s.fp := rfl
@[simp] theorem State.enter_sp (s : State) : s.enter.sp = s.sp := rfl
@[simp] theorem State.enter_imm (s : State) : s.enter.imm = s.imm := rfl
@[simp] theorem State.enter_reg? (s : State) (i : RegNo) : s.enter.reg? i = s.reg? i := rfl

/-! ## Registers -/

/-- Every register number but 15 names a register (R20, R24). -/
theorem State.reg?_isSome (s : State) (r : RegNo) : (s.reg? r).isSome = (r != 15#4) := by
  have h : r.toNat < 16 := r.isLt
  have e : (r = 15#4) ↔ r.toNat = 15 := ⟨fun h => by simp [h], fun h => BitVec.eq_of_toNat_eq (by simpa using h)⟩
  by_cases hr : r.toNat < 15
  · have : ¬ r = 15#4 := fun c => absurd (e.mp c) (by omega)
    simp [State.reg?, hr, this]
  · have : r = 15#4 := e.mpr (by omega)
    simp [this, State.reg?]

@[simp] theorem State.reg?_fifteen (s : State) : s.reg? 15#4 = none := by simp [State.reg?]

/-- A register but 15 holds a word. -/
theorem State.exists_reg? (s : State) {r : RegNo} (h : r ≠ 15#4) : ∃ v, s.reg? r = some v :=
  Option.isSome_iff_exists.mp (by simp [State.reg?_isSome, h])

/-- Reading a register just written. -/
theorem State.reg?_setReg_same (s : State) (r : RegNo) (v : Word) (h : r ≠ 15#4) : (s.setReg r v).reg? r = some v := by
  have hr : r.toNat < 15 := by
    have : r.toNat < 16 := r.isLt
    have : r.toNat ≠ 15 := fun c => h (BitVec.eq_of_toNat_eq (by simpa using c))
    omega
  simp [State.reg?, State.setReg, hr]

/-- Reading another register than the one written. -/
theorem State.reg?_setReg_ne (s : State) {r i : RegNo} (v : Word) (h : i ≠ r) : (s.setReg r v).reg? i = s.reg? i := by
  have : r.toNat ≠ i.toNat := fun c => h (BitVec.eq_of_toNat_eq c.symm)
  simp [State.reg?, State.setReg, this]

/-- fp, sp and imm are registers 12, 13 and 14 (R22, R23). -/
theorem State.reg?_named (s : State) :
    s.reg? 12#4 = some s.fp ∧ s.reg? 13#4 = some s.sp ∧ s.reg? 14#4 = some s.imm := ⟨rfl, rfl, rfl⟩

/-- States with the same registers, as every read sees them, have the same register file. -/
theorem State.regs_eq_of_reg? {s t : State} (h : ∀ r, t.reg? r = s.reg? r) : t.regs = s.regs := by
  refine Vector.ext fun i hi => ?_
  have := h (BitVec.ofNat 4 i)
  have e : (BitVec.ofNat 4 i).toNat = i := by simp; omega
  simpa [State.reg?, e, hi] using this

end Sys2Proof.Machine
end

