-- ==== Sys2Proof/Laws/Ops.lean ====
section
/-! SUPPORT. What each shared operation can do, said once: the proofs cite these and do not unfold the operations. A lemma
`…_eq_next` says exactly when the operation answers a next value, and which. -/

namespace Sys2Proof.Machine

/-! ## Results -/

@[simp] theorem andThen_next {α β : Type} (a : α) (f : α → Res β) : andThen (.next a) f = f a := rfl
@[simp] theorem andThen_fault {α β : Type} (e : Fault) (f : α → Res β) : andThen (.fault e) f = .fault e := rfl
@[simp] theorem andThen_refused {α β : Type} (e : Refusal) (f : α → Res β) : andThen (.refused e) f = .refused e := rfl

theorem andThen_eq_next {α β : Type} {r : Res α} {f : α → Res β} {b : β} :
    andThen r f = .next b ↔ ∃ a, r = .next a ∧ f a = .next b := by
  cases r <;> simp [andThen]

theorem orRefuse_eq_next {α : Type} {o : Option α} {e : Refusal} {a : α} : orRefuse o e = .next a ↔ o = some a := by
  cases o <;> simp [orRefuse]

/-! ## Registers and operands -/

theorem readReg_eq_next {s : State} {r : RegNo} {v : Word} : readReg s r = .next v ↔ s.reg? r = some v :=
  orRefuse_eq_next

theorem readReg_fifteen (s : State) : readReg s 15#4 = .refused .r15Source := by simp [readReg, orRefuse]

theorem writeReg_eq_next {s t : State} {r : RegNo} {v : Word} :
    writeReg s r v = .next t ↔ r ≠ 15#4 ∧ t = s.setReg r v := by
  by_cases h : r = 15#4 <;> simp [writeReg, h, eq_comm]

theorem writeReg_of_ne {r : RegNo} (h : r ≠ 15#4) (s : State) (v : Word) : writeReg s r v = .next (s.setReg r v) :=
  writeReg_eq_next.mpr ⟨h, rfl⟩

theorem readBase_of_reg? {s : State} {r : RegNo} {v : Word} (h : s.reg? r = some v) : readBase s r = v := by
  simp [readBase, h]

theorem readBase_fifteen (s : State) : readBase s 15#4 = s.pc := by simp [readBase]

@[simp] theorem readBase_enter (s : State) (r : RegNo) : readBase s.enter r = readBase s r := rfl

@[simp] theorem effAddr_enter (s : State) (mode : AddrMode) (rb : RegNo) : effAddr s.enter mode rb = effAddr s mode rb := by
  cases mode <;> rfl

@[simp] theorem stackAddr_enter (s : State) (base : StackBase) (off : BitVec 4) :
    stackAddr s.enter base off = stackAddr s base off := by
  cases base <;> rfl

@[simp] theorem quadAddr_enter (s : State) (a : QuadAddr) : quadAddr s.enter a = quadAddr s a := by
  cases a <;> simp [quadAddr]

@[simp] theorem ldiAddr_enter (s : State) (e : BitVec 12) : ldiAddr s.enter e = ldiAddr s e := rfl
@[simp] theorem shortTarget_enter (s : State) (i : BitVec 9) : shortTarget s.enter i = shortTarget s i := rfl
@[simp] theorem longTarget_enter (s : State) (i : BitVec 9) : longTarget s.enter i = longTarget s i := rfl

@[simp] theorem opbIs_enter (s : State) (b : Opb) (y : Word) : opbIs s.enter b y ↔ opbIs s b y := by
  cases b <;> rfl

/-- Operand B is read exactly where it has a value (R104). -/
theorem opbValue_eq_next {s : State} {b : Opb} {y : Word} : opbValue s b = .next y ↔ opbIs s b y := by
  cases b with
  | reg rb => exact readReg_eq_next
  | _ => simp [opbValue, opbIs, eq_comm]

/-! ## The return stack -/

theorem rsPush_eq_next {s t : State} {v : Word} :
    rsPush s v = .next t ↔ s.rs.length < s.plat.rsDepth ∧ t = s.setRs (v :: s.rs) := by
  by_cases h : s.rs.length < s.plat.rsDepth <;> simp [rsPush, h, eq_comm]

theorem rsPop_eq_next {s : State} {p : Word × State} :
    rsPop s = .next p ↔ s.rs = p.1 :: s.rs.tail ∧ p.2 = s.setRs s.rs.tail := by
  obtain ⟨v, t⟩ := p
  cases h : s.rs with
  | nil => simp [rsPop, h]
  | cons w l => simp [rsPop, h, eq_comm]

/-! ## Memory accesses -/

/-- The three ways an access can meet MEM_MAP (R62), as `accessKind` tells them apart. -/
theorem accessKind_eq_memory_iff {s : State} {n : Size} {a : Word} :
    accessKind s.plat.map n a = some .memory ↔ inMemory s n a := accessKind_eq_memory

theorem accessKind_eq_none_iff {s : State} {n : Size} {a : Word} :
    accessKind s.plat.map n a = none ↔ touchesNothing s n a := accessKind_eq_none

theorem accessKind_eq_device_iff {s : State} {n : Size} {a : Word} :
    accessKind s.plat.map n a = some .device ↔ meetsDevice s n a := accessKind_eq_device

/-- An access that touches no hole lies in memory or meets a device. -/
theorem inMemory_or_meetsDevice {s : State} {n : Size} {a : Word} (h : ¬ touchesNothing s n a) :
    inMemory s n a ∨ meetsDevice s n a := by
  rw [← accessKind_eq_none_iff] at h
  rw [← accessKind_eq_memory_iff, ← accessKind_eq_device_iff]
  match hk : accessKind s.plat.map n a with
  | none => exact absurd hk h
  | some .memory => simp
  | some .device => simp

/-- What a read that meets a device gives is what `answersRead` says, and nothing else is (logs 10 and 43). -/
theorem answersRead_iff {s : State} {n : Size} {a v : Word} (h : aligned n a = true) :
    answersRead s n a v ↔ v = deviceOperand s n a := by
  have hd : answersRead s n a (deviceOperand s n a) := by
    refine ⟨trunc_operandOf _ _, fun i hi => ?_⟩
    rw [deviceOperand, operandByte_operandOf _ _ hi, s.mem.byteAt_aligned h hi]
  refine ⟨fun hv => ?_, fun e => e ▸ hd⟩
  rw [← operandOf_operandByte hv.1, ← operandOf_operandByte hd.1]
  exact operandOf_congr n fun i hi => (hv.2 i hi).trans (hd.2 i hi).symm

/-- A read answers exactly where the access is aligned and something is there (R62, R66, R67, R325). -/
theorem memRead_eq_next {n : Size} {a : Word} {s : State} {p : Word × State} :
    memRead n a s = .next p ↔ aligned n a = true ∧
      ((inMemory s n a ∧ p = (s.mem.readOperand n a, s)) ∨
        (meetsDevice s n a ∧
          p = (deviceOperand s n a, s.tookDevice.logDevice (.read a n (deviceOperand s n a))))) := by
  rw [← accessKind_eq_memory_iff, ← accessKind_eq_device_iff]
  by_cases h : aligned n a = true
  · cases hk : accessKind s.plat.map n a with
    | none => simp [memRead, h, hk]
    | some k => cases k <;> simp [memRead, h, hk, eq_comm]
  · simp [memRead, h]

/-- A write answers exactly where the access is aligned and something is there (R62, R66, R67, R325). -/
theorem memWrite_eq_next {n : Size} {a v : Word} {s t : State} :
    memWrite n a v s = .next t ↔ aligned n a = true ∧
      ((inMemory s n a ∧ t = s.storeCells (operandCells n a v)) ∨
        (meetsDevice s n a ∧
          t = ((s.storeCells (memoryCells s.plat.map (operandCells n a v))).markDevice (operandCells n a v)).logDevice
            (.write a n (n.trunc v)))) := by
  rw [← accessKind_eq_memory_iff, ← accessKind_eq_device_iff]
  by_cases h : aligned n a = true
  · cases hk : accessKind s.plat.map n a with
    | none => simp [memWrite, h, hk]
    | some k => cases k <;> simp [memWrite, h, hk, eq_comm]
  · simp [memWrite, h]

/-- A misaligned access stops (R67). -/
theorem memRead_misaligned {n : Size} {a : Word} (h : aligned n a = false) (s : State) :
    memRead n a s = .fault (.misalignedRead a n) := by simp [memRead, h]

theorem memWrite_misaligned {n : Size} {a : Word} (h : aligned n a = false) (v : Word) (s : State) :
    memWrite n a v s = .fault (.misalignedWrite a n) := by simp [memWrite, h]

/-- An aligned access that touches a hole stops (R62). -/
theorem memRead_unmapped {n : Size} {a : Word} {s : State} (h : aligned n a = true) (ht : touchesNothing s n a) :
    memRead n a s = .fault (.unmapped a) := by simp [memRead, h, accessKind_eq_none_iff.mpr ht]

theorem memWrite_unmapped {n : Size} {a : Word} {s : State} (h : aligned n a = true) (ht : touchesNothing s n a)
    (v : Word) : memWrite n a v s = .fault (.unmapped a) := by simp [memWrite, h, accessKind_eq_none_iff.mpr ht]

/-! ## The canonical form of memory (log 2) -/

/-- The memory of the reset state has it. -/
theorem reset_mem_wf : State.reset.mem.wf := Memory.wf_nil

/-- A read leaves the memory as it is. -/
theorem memRead_mem {n : Size} {a : Word} {s : State} {p : Word × State} (h : memRead n a s = .next p) :
    p.2.mem = s.mem := by
  rcases (memRead_eq_next.mp h).2 with ⟨-, rfl⟩ | ⟨-, rfl⟩ <;> rfl

/-- A write keeps the form. -/
theorem memWrite_mem_wf {n : Size} {a v : Word} {s t : State} (h : memWrite n a v s = .next t) (hs : s.mem.wf) :
    t.mem.wf := by
  rcases (memWrite_eq_next.mp h).2 with ⟨-, rfl⟩ | ⟨-, rfl⟩
  · exact Memory.wf_writeCells hs _ (operandCells_lt n a v)
  · exact Memory.wf_writeCells hs _ fun c hc => operandCells_lt n a v c (mem_memoryCells.mp hc).1

/-- Placing a word where the next fetch is keeps the form. -/
theorem withFetchWord_mem_wf {s : State} (h : s.mem.wf) (nbits w : Nat) : (s.withFetchWord nbits w).mem.wf :=
  Memory.wf_write (Memory.wf_write h s.pc.isLt _) (s.pc + 1#32).isLt _

/-! ## The instruction slot -/

theorem plainSlot_eq_next {s t : State} {effect : State → Res State} :
    plainSlot s effect = .next t ↔ ∃ u, effect s.enter = .next u ∧ t = u.setPc s.nextPc := by
  simp only [plainSlot, andThen_eq_next, Host.Outcome.next.injEq, eq_comm (b := t)]

/-- A skip-class instruction executes exactly where R224 b and d let it. -/
theorem skipSlot_eq_next {s t : State} {effect : State → Res State} :
    skipSlot s effect = .next t ↔ s.unhindered ∧ plainSlot s effect = .next t := by
  unfold skipSlot State.unhindered
  cases s.delayTarget <;> by_cases h : s.sv <<< 1 = 0#8 <;> simp [h]

theorem skipTest_eq_next {s t : State} {cond : State → Res Bool} :
    skipTest s cond = .next t ↔
      s.unhindered ∧ ∃ b, cond s.enter = .next b ∧ t = (s.enter.setSkip b .skip).setPc s.nextPc := by
  simp only [skipTest, skipSlot_eq_next, plainSlot_eq_next, andThen_eq_next, Host.Outcome.next.injEq]
  refine and_congr_right fun _ => ⟨?_, ?_⟩
  · rintro ⟨u, ⟨b, hb, rfl⟩, rfl⟩
    exact ⟨b, hb, rfl⟩
  · rintro ⟨b, hb, rfl⟩
    exact ⟨_, ⟨b, hb, rfl⟩, rfl⟩

theorem spamSlot_eq_next {s t : State} {vector : Bool → BitVec 8} :
    spamSlot s vector = .next t ↔
      s.unhindered ∧ s.skipKind = .skip ∧ t = (s.enter.setSv (vector s.skipNext)).setPc s.nextPc := by
  by_cases h : s.skipKind = .skip <;> simp [spamSlot, skipSlot_eq_next, plainSlot_eq_next, h]

/-- Where no delay slot is pending the next slot is the next instruction (R27). -/
theorem State.nextPc_of_none {s : State} (h : s.delayTarget = none) : s.nextPc = s.pc + 2#32 := by
  simp [State.nextPc, h]

/-- A transfer goes to every even target (R271, R273). -/
theorem transferTo_eq_next {s t : State} {dnull : Bool} {a : Word} :
    transferTo s dnull a = .next t ↔ a.getLsbD 0 = false ∧
      t = if dnull then s.setPc a else (s.setDelay (some a)).setPc (s.pc + 2#32) := by
  cases h : a.getLsbD 0 <;> cases dnull <;> simp only [transferTo, h] <;> simp [eq_comm]

/-- A control transfer executes exactly where R224 a and c let it. -/
theorem transferSlot_eq_next {s t : State} {dnull : Bool} {effect : State → Res (Word × State)} :
    transferSlot s dnull effect = .next t ↔
      s.unhindered ∧ ∃ a u, effect s.enter = .next (a, u) ∧ transferTo u dnull a = .next t := by
  unfold transferSlot State.unhindered
  cases s.delayTarget <;> by_cases h : s.sv <<< 1 = 0#8 <;> simp [h, andThen_eq_next]

theorem jumpSlot_eq_next {s t : State} {dnull : Bool} {target : State → Res Word} :
    jumpSlot s dnull target = .next t ↔
      s.unhindered ∧ ∃ a, target s.enter = .next a ∧ transferTo s.enter dnull a = .next t := by
  simp only [jumpSlot, transferSlot_eq_next, andThen_eq_next]
  refine and_congr_right fun _ => ⟨?_, ?_⟩
  · rintro ⟨a, u, ⟨b, hb, e⟩, h⟩
    obtain ⟨rfl, rfl⟩ : b = a ∧ s.enter = u := by simpa using e
    exact ⟨b, hb, h⟩
  · rintro ⟨a, ha, h⟩
    exact ⟨a, _, ⟨a, ha, rfl⟩, h⟩

theorem callSlot_eq_next {s t : State} {dnull : Bool} {target : State → Res Word} :
    callSlot s dnull target = .next t ↔
      s.unhindered ∧ s.rs.length < s.plat.rsDepth ∧ ∃ a, target s.enter = .next a ∧
        transferTo (s.enter.setRs (returnAddress s dnull :: s.rs)) dnull a = .next t := by
  simp only [callSlot, transferSlot_eq_next, andThen_eq_next, rsPush_eq_next]
  refine and_congr_right fun _ => ⟨?_, ?_⟩
  · rintro ⟨a, u, ⟨b, hb, w, ⟨hl, rfl⟩, e⟩, h⟩
    obtain ⟨rfl, rfl⟩ : b = a ∧ _ = u := by simpa using e
    exact ⟨hl, b, hb, h⟩
  · rintro ⟨hl, a, ha, h⟩
    exact ⟨a, _, ⟨a, ha, _, ⟨hl, rfl⟩, rfl⟩, h⟩

/-! ## Fetch and step -/

/-- A fetch answers exactly where the address is even, its bytes are not written, and something is there (R65, R69, R74). -/
theorem fetch_eq_next {s : State} {p : Wyde × State} :
    fetch s = .next p ↔ s.pc.getLsbD 0 = false ∧ s.pc.toNat ∉ s.written ∧ (s.pc + 1#32).toNat ∉ s.written ∧
      ∃ q, memRead .wyde s.pc s = .next q ∧ p = (q.1.setWidth 16, q.2) := by
  unfold fetch
  by_cases h0 : s.pc.getLsbD 0 = true
  · simp only [h0, if_true]; simp
  · have h0' : s.pc.getLsbD 0 = false := by simpa using h0
    by_cases hw : s.pc.toNat ∈ s.written ∨ (s.pc + 1#32).toNat ∈ s.written
    · simp only [h0', Bool.false_eq_true, if_false, hw, if_true]
      simp only [reduceCtorEq, false_iff]
      rintro ⟨-, h1, h2, -⟩
      exact hw.elim h1 h2
    · simp only [h0', Bool.false_eq_true, if_false, hw, andThen_eq_next]
      simp only [not_or] at hw
      simp only [hw.1, hw.2, not_false_eq_true, true_and, Host.Outcome.next.injEq, eq_comm (b := p)]

/-- An even address is a multiple of two. -/
theorem aligned_wyde_of_even {a : Word} (h : a.getLsbD 0 = false) : aligned .wyde a = true := by
  have : a.toNat.testBit 0 = false := h
  simp [Nat.testBit_zero] at this
  simp [aligned, Size.bytes, this]

/-- A wyde is in memory where its two bytes are. -/
theorem inMemory_wyde {s : State} {a : Word} (h : aligned .wyde a = true)
    (hk : kindAt s.plat.map a.toNat = some .memory ∧ kindAt s.plat.map (a + 1#32).toNat = some .memory) :
    inMemory s .wyde a := by
  rw [aligned_wyde h] at hk
  intro i hi
  simp only [Size.bytes] at hi
  interval_cases i
  · exact hk.1
  · exact hk.2

/-- Where the word at `pc` is fetchable the fetch gives it and changes nothing. -/
theorem fetch_of_fetchable {s : State} (h : s.fetchable) : fetch s = .next (s.wordAtPc, s) := by
  obtain ⟨he, h1, h2, hk⟩ := h
  have ha := aligned_wyde_of_even he
  have hm : inMemory s .wyde s.pc := inMemory_wyde ha hk
  refine fetch_eq_next.mpr ⟨he, h1, h2, _, memRead_eq_next.mpr ⟨ha, .inl ⟨hm, rfl⟩⟩, ?_⟩
  simp [State.wordAtPc, wydeOfBytes, Memory.readOperand, operandOf]

end Sys2Proof.Machine
end

