-- ==== Sys2Proof/Laws/PerInstr.lean ====
section
/-! SUPPORT. A family of statements made per instruction (LAWS.json): the bits the slot algorithm asks of a word to know a
SPAM (44_skip_spam.md R220, bits 15:11 = 11110) are those of SPAM words and of no other instruction's. -/

namespace Sys2Proof

/-! ## The five high bits of a packed word -/

theorem isSpamWord_packAlu (op : BitVec 5) (b : Opb) (ra : RegNo) : isSpamWord (packAlu op b ra) = (op == 0b11110#5) := by
  rw [isSpamWord, packAlu, BitVec.extractLsb'_append_eq_of_le (by decide)]
  simp

theorem isSpamWord_packFive (op : BitVec 7) (n : BitVec 5) (ra : RegNo) :
    isSpamWord (packFive op n ra) = (op.extractLsb' 2 5 == 0b11110#5) := by
  rw [isSpamWord, packFive, BitVec.extractLsb'_append_eq_of_le (by decide)]

theorem isSpamWord_packPair (op : BitVec 8) (rb ra : BitVec 4) :
    isSpamWord (packPair op rb ra) = (op.extractLsb' 3 5 == 0b11110#5) := by
  rw [isSpamWord, packPair, BitVec.extractLsb'_append_eq_of_le (by decide)]

theorem isSpamWord_packBranch (op : BitVec 7) (i9 : BitVec 9) :
    isSpamWord (packBranch op i9) = (op.extractLsb' 2 5 == 0b11110#5) := by
  rw [isSpamWord, packBranch, BitVec.extractLsb'_append_eq_of_le (by decide)]

theorem isSpamWord_packEight (op x : BitVec 8) : isSpamWord (packEight op x) = (op.extractLsb' 3 5 == 0b11110#5) := by
  rw [isSpamWord, packEight, BitVec.extractLsb'_append_eq_of_le (by decide)]

/-- A SPAM word has major opcode 1111. -/
theorem major_of_isSpamWord {w : Wyde} (h : isSpamWord w = true) : w.extractLsb' 12 4 = 0b1111#4 := by
  have e : w.extractLsb' 11 5 = 0b11110#5 := by simpa [isSpamWord] using h
  have : w.extractLsb' 12 4 = (w.extractLsb' 11 5).extractLsb' 1 4 := by
    apply BitVec.eq_of_getLsbD_eq
    intro i hi
    simp only [BitVec.getLsbD_extractLsb', hi, decide_true, Bool.true_and, (by omega : 1 + i < 5)]
    congr 1; omega
  rw [this, e]; rfl

theorem major_append (op : BitVec 4) (x : BitVec 12) : (op ++ x).extractLsb' 12 4 = op := by
  rw [BitVec.extractLsb'_append_eq_of_le (by decide)]
  simp

theorem isSpamWord_packTwelve {op : BitVec 4} (h : op ≠ 0b1111#4) (x : BitVec 12) : isSpamWord (packTwelve op x) = false :=
  Bool.eq_false_iff.mpr fun c => h ((major_append op x).symm.trans (major_of_isSpamWord c))

theorem isSpamWord_packMem {op : BitVec 4} (h : op ≠ 0b1111#4) (m : BitVec 1) (z : BitVec 3) (rb ra : BitVec 4) :
    isSpamWord (packMem op m z rb ra) = false :=
  Bool.eq_false_iff.mpr fun c => h ((major_append op _).symm.trans (major_of_isSpamWord c))

theorem isSpamWord_packQuad {op : BitVec 4} (h : op ≠ 0b1111#4) (a : QuadAddr) (ra : RegNo) :
    isSpamWord (packQuad op a ra) = false := by
  cases a <;> exact isSpamWord_packMem h ..

end Sys2Proof

namespace Sys2Proof.Laws

open Sys2Proof.Machine

/-- The word of the instruction is a SPAM by its bits exactly where the instruction is a SPAM. -/
def SpamBits.Statement (i : Instr) : Prop := isSpamWord (encode i) = (classOf i == .spam)

theorem SpamBits.nop : SpamBits.Statement (.nop) := rfl
theorem SpamBits.clr (ra : RegNo) : SpamBits.Statement (.clr ra) := isSpamWord_packAlu ..
theorem SpamBits.not (ra : RegNo) : SpamBits.Statement (.not ra) := isSpamWord_packAlu ..
theorem SpamBits.inc (ra : RegNo) : SpamBits.Statement (.inc ra) := isSpamWord_packAlu ..
theorem SpamBits.dec (ra : RegNo) : SpamBits.Statement (.dec ra) := isSpamWord_packAlu ..
theorem SpamBits.neg (ra : RegNo) : SpamBits.Statement (.neg ra) := isSpamWord_packAlu ..
theorem SpamBits.rolOne (ra : RegNo) : SpamBits.Statement (.rolOne ra) := (isSpamWord_packFive ..).trans rfl
theorem SpamBits.lsr (ra : RegNo) (n : BitVec 5) : SpamBits.Statement (.lsr ra n) :=
  (isSpamWord_packFive ..).trans rfl
theorem SpamBits.lsl (ra : RegNo) (n : BitVec 5) : SpamBits.Statement (.lsl ra n) :=
  (isSpamWord_packFive ..).trans rfl
theorem SpamBits.asr (ra : RegNo) (n : BitVec 5) : SpamBits.Statement (.asr ra n) :=
  (isSpamWord_packFive ..).trans rfl
theorem SpamBits.flip (ra : RegNo) (n : BitVec 5) : SpamBits.Statement (.flip ra n) :=
  (isSpamWord_packFive ..).trans rfl
theorem SpamBits.ror (ra : RegNo) (n : BitVec 5) : SpamBits.Statement (.ror ra n) :=
  (isSpamWord_packFive ..).trans rfl
theorem SpamBits.rol (ra : RegNo) (n : BitVec 5) : SpamBits.Statement (.rol ra n) :=
  (isSpamWord_packFive ..).trans rfl
theorem SpamBits.extUw (ra rb : RegNo) : SpamBits.Statement (.extUw ra rb) := (isSpamWord_packPair ..).trans rfl
theorem SpamBits.extSw (ra rb : RegNo) : SpamBits.Statement (.extSw ra rb) := (isSpamWord_packPair ..).trans rfl
theorem SpamBits.extUb (ra rb : RegNo) : SpamBits.Statement (.extUb ra rb) := (isSpamWord_packPair ..).trans rfl
theorem SpamBits.extSb (ra rb : RegNo) : SpamBits.Statement (.extSb ra rb) := (isSpamWord_packPair ..).trans rfl
theorem SpamBits.undefRegOpb (op : BitVec 3) (b11 : BitVec 1) (ra rb : RegNo) : SpamBits.Statement (.undefRegOpb op b11 ra rb) :=
  (isSpamWord_packPair ..).trans (show _ = false by revert op b11; decide)
theorem SpamBits.mov (ra : RegNo) (b : Opb) : SpamBits.Statement (.mov ra b) := isSpamWord_packAlu ..
theorem SpamBits.movNot (ra : RegNo) (b : Opb) : SpamBits.Statement (.movNot ra b) := isSpamWord_packAlu ..
theorem SpamBits.and (ra : RegNo) (b : Opb) : SpamBits.Statement (.and ra b) := isSpamWord_packAlu ..
theorem SpamBits.andNot (ra : RegNo) (b : Opb) : SpamBits.Statement (.andNot ra b) := isSpamWord_packAlu ..
theorem SpamBits.or (ra : RegNo) (b : Opb) : SpamBits.Statement (.or ra b) := isSpamWord_packAlu ..
theorem SpamBits.orNot (ra : RegNo) (b : Opb) : SpamBits.Statement (.orNot ra b) := isSpamWord_packAlu ..
theorem SpamBits.xor (ra : RegNo) (b : Opb) : SpamBits.Statement (.xor ra b) := isSpamWord_packAlu ..
theorem SpamBits.xorNot (ra : RegNo) (b : Opb) : SpamBits.Statement (.xorNot ra b) := isSpamWord_packAlu ..
theorem SpamBits.add (ra : RegNo) (b : Opb) : SpamBits.Statement (.add ra b) := isSpamWord_packAlu ..
theorem SpamBits.addSnc (ra : RegNo) (b : Opb) : SpamBits.Statement (.addSnc ra b) := isSpamWord_packAlu ..
theorem SpamBits.sub (ra : RegNo) (b : Opb) : SpamBits.Statement (.sub ra b) := isSpamWord_packAlu ..
theorem SpamBits.subSnb (ra : RegNo) (b : Opb) : SpamBits.Statement (.subSnb ra b) := isSpamWord_packAlu ..
theorem SpamBits.rsub (ra : RegNo) (b : Opb) : SpamBits.Statement (.rsub ra b) := isSpamWord_packAlu ..
theorem SpamBits.rsubSnb (ra : RegNo) (b : Opb) : SpamBits.Statement (.rsubSnb ra b) := isSpamWord_packAlu ..
theorem SpamBits.ldqRs (a : QuadAddr) : SpamBits.Statement (.ldqRs a) := isSpamWord_packQuad (by decide) ..
theorem SpamBits.ldqStack (ra : RegNo) (base : StackBase) (off : BitVec 4) : SpamBits.Statement (.ldqStack ra base off) :=
  isSpamWord_packQuad (by decide) ..
theorem SpamBits.undefLdQuadSign (m s : BitVec 1) (ra rb : RegNo) : SpamBits.Statement (.undefLdQuadSign m s ra rb) :=
  isSpamWord_packMem (by decide) ..
theorem SpamBits.ldq (ra : RegNo) (mode : AddrMode) (rb : RegNo) : SpamBits.Statement (.ldq ra mode rb) :=
  isSpamWord_packQuad (by decide) ..
theorem SpamBits.lduw (ra : RegNo) (mode : AddrMode) (rb : RegNo) : SpamBits.Statement (.lduw ra mode rb) :=
  isSpamWord_packMem (by decide) ..
theorem SpamBits.ldsw (ra : RegNo) (mode : AddrMode) (rb : RegNo) : SpamBits.Statement (.ldsw ra mode rb) :=
  isSpamWord_packMem (by decide) ..
theorem SpamBits.ldub (ra : RegNo) (mode : AddrMode) (rb : RegNo) : SpamBits.Statement (.ldub ra mode rb) :=
  isSpamWord_packMem (by decide) ..
theorem SpamBits.ldsb (ra : RegNo) (mode : AddrMode) (rb : RegNo) : SpamBits.Statement (.ldsb ra mode rb) :=
  isSpamWord_packMem (by decide) ..
theorem SpamBits.stqRs (a : QuadAddr) : SpamBits.Statement (.stqRs a) := isSpamWord_packQuad (by decide) ..
theorem SpamBits.stqStack (ra : RegNo) (base : StackBase) (off : BitVec 4) : SpamBits.Statement (.stqStack ra base off) :=
  isSpamWord_packQuad (by decide) ..
theorem SpamBits.stq (ra : RegNo) (mode : AddrMode) (rb : RegNo) : SpamBits.Statement (.stq ra mode rb) :=
  isSpamWord_packQuad (by decide) ..
theorem SpamBits.stw (ra : RegNo) (mode : AddrMode) (rb : RegNo) : SpamBits.Statement (.stw ra mode rb) :=
  isSpamWord_packMem (by decide) ..
theorem SpamBits.stb (ra : RegNo) (mode : AddrMode) (rb : RegNo) : SpamBits.Statement (.stb ra mode rb) :=
  isSpamWord_packMem (by decide) ..
theorem SpamBits.undefLeaSize (m : BitVec 1) (ra : RegNo) (off : BitVec 4) : SpamBits.Statement (.undefLeaSize m ra off) :=
  isSpamWord_packMem (by decide) ..
theorem SpamBits.lea (ra : RegNo) (mode : AddrMode) (size : LeaSize) (rb : RegNo) : SpamBits.Statement (.lea ra mode size rb) :=
  isSpamWord_packMem (by decide) ..
theorem SpamBits.ldi (ea12 : BitVec 12) : SpamBits.Statement (.ldi ea12) := isSpamWord_packTwelve (by decide) ..
theorem SpamBits.imm12 (i12 : BitVec 12) : SpamBits.Statement (.imm12 i12) := isSpamWord_packTwelve (by decide) ..
theorem SpamBits.di : SpamBits.Statement (.di) := rfl
theorem SpamBits.ei : SpamBits.Statement (.ei) := rfl
theorem SpamBits.undefCoproc (x : BitVec 12) : SpamBits.Statement (.undefCoproc x) :=
  isSpamWord_packTwelve (by decide) ..
theorem SpamBits.skipA : SpamBits.Statement (.skipA) := rfl
theorem SpamBits.skipN : SpamBits.Statement (.skipN) := rfl
theorem SpamBits.skipLo (ra rb : RegNo) : SpamBits.Statement (.skipLo ra rb) := (isSpamWord_packPair ..).trans rfl
theorem SpamBits.skipHs (ra rb : RegNo) : SpamBits.Statement (.skipHs ra rb) := (isSpamWord_packPair ..).trans rfl
theorem SpamBits.skipLs (ra rb : RegNo) : SpamBits.Statement (.skipLs ra rb) := (isSpamWord_packPair ..).trans rfl
theorem SpamBits.skipHi (ra rb : RegNo) : SpamBits.Statement (.skipHi ra rb) := (isSpamWord_packPair ..).trans rfl
theorem SpamBits.skipLt (ra rb : RegNo) : SpamBits.Statement (.skipLt ra rb) := (isSpamWord_packPair ..).trans rfl
theorem SpamBits.skipGe (ra rb : RegNo) : SpamBits.Statement (.skipGe ra rb) := (isSpamWord_packPair ..).trans rfl
theorem SpamBits.skipLe (ra rb : RegNo) : SpamBits.Statement (.skipLe ra rb) := (isSpamWord_packPair ..).trans rfl
theorem SpamBits.skipGt (ra rb : RegNo) : SpamBits.Statement (.skipGt ra rb) := (isSpamWord_packPair ..).trans rfl
theorem SpamBits.skipEq (ra rb : RegNo) : SpamBits.Statement (.skipEq ra rb) := (isSpamWord_packPair ..).trans rfl
theorem SpamBits.skipNe (ra rb : RegNo) : SpamBits.Statement (.skipNe ra rb) := (isSpamWord_packPair ..).trans rfl
theorem SpamBits.skipZ (ra : RegNo) : SpamBits.Statement (.skipZ ra) := (isSpamWord_packPair ..).trans rfl
theorem SpamBits.skipNz (ra : RegNo) : SpamBits.Statement (.skipNz ra) := (isSpamWord_packPair ..).trans rfl
theorem SpamBits.skipAwz (ra : RegNo) : SpamBits.Statement (.skipAwz ra) := (isSpamWord_packPair ..).trans rfl
theorem SpamBits.skipNwz (ra : RegNo) : SpamBits.Statement (.skipNwz ra) := (isSpamWord_packPair ..).trans rfl
theorem SpamBits.skipAbz (ra : RegNo) : SpamBits.Statement (.skipAbz ra) := (isSpamWord_packPair ..).trans rfl
theorem SpamBits.skipNbz (ra : RegNo) : SpamBits.Statement (.skipNbz ra) := (isSpamWord_packPair ..).trans rfl
theorem SpamBits.skipLez (ra : RegNo) : SpamBits.Statement (.skipLez ra) := (isSpamWord_packPair ..).trans rfl
theorem SpamBits.skipGtz (ra : RegNo) : SpamBits.Statement (.skipGtz ra) := (isSpamWord_packPair ..).trans rfl
theorem SpamBits.skipAwm (ra : RegNo) : SpamBits.Statement (.skipAwm ra) := (isSpamWord_packPair ..).trans rfl
theorem SpamBits.skipNwm (ra : RegNo) : SpamBits.Statement (.skipNwm ra) := (isSpamWord_packPair ..).trans rfl
theorem SpamBits.skipAbm (ra : RegNo) : SpamBits.Statement (.skipAbm ra) := (isSpamWord_packPair ..).trans rfl
theorem SpamBits.skipNbm (ra : RegNo) : SpamBits.Statement (.skipNbm ra) := (isSpamWord_packPair ..).trans rfl
theorem SpamBits.undefScc (sense : BitVec 1) (ra : RegNo) : SpamBits.Statement (.undefScc sense ra) :=
  (isSpamWord_packPair ..).trans (show _ = false by revert sense; decide)
theorem SpamBits.skipFs (n : BitVec 4) : SpamBits.Statement (.skipFs n) := (isSpamWord_packPair ..).trans rfl
theorem SpamBits.skipFc (n : BitVec 4) : SpamBits.Statement (.skipFc n) := (isSpamWord_packPair ..).trans rfl
theorem SpamBits.skipCpt (ccc : BitVec 3) (n : BitVec 4) : SpamBits.Statement (.skipCpt ccc n) :=
  (isSpamWord_packPair ..).trans rfl
theorem SpamBits.skipCpf (ccc : BitVec 3) (n : BitVec 4) : SpamBits.Statement (.skipCpf ccc n) :=
  (isSpamWord_packPair ..).trans rfl
theorem SpamBits.skipMi (ra : RegNo) : SpamBits.Statement (.skipMi ra) := (isSpamWord_packFive ..).trans rfl
theorem SpamBits.skipPl (ra : RegNo) : SpamBits.Statement (.skipPl ra) := (isSpamWord_packFive ..).trans rfl
theorem SpamBits.skipBs (ra : RegNo) (b : BitVec 5) : SpamBits.Statement (.skipBs ra b) :=
  (isSpamWord_packFive ..).trans rfl
theorem SpamBits.skipBc (ra : RegNo) (b : BitVec 5) : SpamBits.Statement (.skipBc ra b) :=
  (isSpamWord_packFive ..).trans rfl
theorem SpamBits.braD (i9 : BitVec 9) : SpamBits.Statement (.braD i9) := (isSpamWord_packBranch ..).trans rfl
theorem SpamBits.bra (i9 : BitVec 9) : SpamBits.Statement (.bra i9) := (isSpamWord_packBranch ..).trans rfl
theorem SpamBits.bsrD (i9 : BitVec 9) : SpamBits.Statement (.bsrD i9) := (isSpamWord_packBranch ..).trans rfl
theorem SpamBits.bsr (i9 : BitVec 9) : SpamBits.Statement (.bsr i9) := (isSpamWord_packBranch ..).trans rfl
theorem SpamBits.lbraD (i9 : BitVec 9) : SpamBits.Statement (.lbraD i9) := (isSpamWord_packBranch ..).trans rfl
theorem SpamBits.lbra (i9 : BitVec 9) : SpamBits.Statement (.lbra i9) := (isSpamWord_packBranch ..).trans rfl
theorem SpamBits.lbsrD (i9 : BitVec 9) : SpamBits.Statement (.lbsrD i9) := (isSpamWord_packBranch ..).trans rfl
theorem SpamBits.lbsr (i9 : BitVec 9) : SpamBits.Statement (.lbsr i9) := (isSpamWord_packBranch ..).trans rfl
theorem SpamBits.spamAnd (mask : BitVec 8) : SpamBits.Statement (.spamAnd mask) := (isSpamWord_packEight ..).trans rfl
theorem SpamBits.spamXorn (trunc : BitVec 3) (mask : BitVec 8) : SpamBits.Statement (.spamXorn trunc mask) :=
  (isSpamWord_packEight ..).trans (show _ = true by revert trunc; decide)
theorem SpamBits.jmpD (ra : RegNo) : SpamBits.Statement (.jmpD ra) := (isSpamWord_packPair ..).trans rfl
theorem SpamBits.jmp (ra : RegNo) : SpamBits.Statement (.jmp ra) := (isSpamWord_packPair ..).trans rfl
theorem SpamBits.jsrD (ra : RegNo) : SpamBits.Statement (.jsrD ra) := (isSpamWord_packPair ..).trans rfl
theorem SpamBits.jsr (ra : RegNo) : SpamBits.Statement (.jsr ra) := (isSpamWord_packPair ..).trans rfl
theorem SpamBits.rbraD (ra : RegNo) : SpamBits.Statement (.rbraD ra) := (isSpamWord_packPair ..).trans rfl
theorem SpamBits.rbra (ra : RegNo) : SpamBits.Statement (.rbra ra) := (isSpamWord_packPair ..).trans rfl
theorem SpamBits.rbsrD (ra : RegNo) : SpamBits.Statement (.rbsrD ra) := (isSpamWord_packPair ..).trans rfl
theorem SpamBits.rbsr (ra : RegNo) : SpamBits.Statement (.rbsr ra) := (isSpamWord_packPair ..).trans rfl
theorem SpamBits.rtsD : SpamBits.Statement (.rtsD) := rfl
theorem SpamBits.rts : SpamBits.Statement (.rts) := rfl
theorem SpamBits.rtiD : SpamBits.Statement (.rtiD) := rfl
theorem SpamBits.rti : SpamBits.Statement (.rti) := rfl
theorem SpamBits.trapD (tr : BitVec 8) : SpamBits.Statement (.trapD tr) := (isSpamWord_packEight ..).trans rfl
theorem SpamBits.trap (tr : BitVec 8) : SpamBits.Statement (.trap tr) := (isSpamWord_packEight ..).trans rfl
theorem SpamBits.undefBit10 (b9 : BitVec 1) (x : BitVec 8) : SpamBits.Statement (.undefBit10 b9 x) :=
  (isSpamWord_packEight ..).trans (show _ = false by revert b9; decide)
theorem SpamBits.undefJ (b : BitVec 2) (sub ra : BitVec 4) : SpamBits.Statement (.undefJ b sub ra) :=
  (isSpamWord_packPair ..).trans (show _ = false by revert b; decide)

end Sys2Proof.Laws
end

