-- ==== Sys2Proof/Laws/Slots.lean ====
section
/-! SUPPORT. What each shape of meaning can do, said once: when it answers a next state, and which. The meanings are one
call of a shape each (Machine/Logical.lean, Arithmetic.lean, Shift.lean, MemoryGroup.lean, Skip.lean). -/

namespace Sys2Proof.Machine

/-- The state after an executed instruction that writes one register and makes no test. -/
def State.afterWrite (s : State) (ra : RegNo) (v : Word) : State := (s.enter.setReg ra v).setPc s.nextPc

/-- The state after an executed instruction that hands a test to the next slot. -/
def State.afterTest (s : State) (b : Bool) : State := (s.enter.setSkip b .skip).setPc s.nextPc

/-! ## ALU shapes -/

theorem moveSlot_eq_next {s t : State} {ra : RegNo} {b : Opb} {f : Word → Word} :
    moveSlot s ra b f = .next t ↔ ra ≠ 15#4 ∧ ∃ y, opbIs s b y ∧ t = s.afterWrite ra (f y) := by
  simp only [moveSlot, plainSlot_eq_next, andThen_eq_next, opbValue_eq_next, opbIs_enter, writeReg_eq_next]
  constructor
  · rintro ⟨u, ⟨y, hy, h, rfl⟩, rfl⟩
    exact ⟨h, y, hy, rfl⟩
  · rintro ⟨h, y, hy, rfl⟩
    exact ⟨_, ⟨y, hy, h, rfl⟩, rfl⟩

theorem aluSlot_eq_next {s t : State} {ra : RegNo} {b : Opb} {f : Word → Word → Word} :
    aluSlot s ra b f = .next t ↔
      ra ≠ 15#4 ∧ ∃ x y, s.reg? ra = some x ∧ opbIs s b y ∧ t = s.afterWrite ra (f x y) := by
  simp only [aluSlot, plainSlot_eq_next, andThen_eq_next, opbValue_eq_next, opbIs_enter, writeReg_eq_next,
    readReg_eq_next, State.enter_reg?]
  constructor
  · rintro ⟨u, ⟨x, hx, y, hy, h, rfl⟩, rfl⟩
    exact ⟨h, x, y, hx, hy, rfl⟩
  · rintro ⟨h, x, y, hx, hy, rfl⟩
    exact ⟨_, ⟨x, hx, y, hy, h, rfl⟩, rfl⟩

theorem cskipSlot_eq_next {s t : State} {ra : RegNo} {b : Opb} {f : Word → Word → Word} {c : Word → Word → Bool} :
    cskipSlot s ra b f c = .next t ↔ s.unhindered ∧ ra ≠ 15#4 ∧ ∃ x y, s.reg? ra = some x ∧ opbIs s b y ∧
      t = ((s.enter.setReg ra (f x y)).setSkip (!c x y) .cskip).setPc s.nextPc := by
  simp only [cskipSlot, skipSlot_eq_next, plainSlot_eq_next, andThen_eq_next, opbValue_eq_next, opbIs_enter,
    writeReg_eq_next, readReg_eq_next, State.enter_reg?, Host.Outcome.next.injEq]
  refine and_congr_right fun _ => ⟨?_, ?_⟩
  · rintro ⟨u, ⟨x, hx, y, hy, w, ⟨h, rfl⟩, rfl⟩, rfl⟩
    exact ⟨h, x, y, hx, hy, rfl⟩
  · rintro ⟨h, x, y, hx, hy, rfl⟩
    exact ⟨_, ⟨x, hx, y, hy, _, ⟨h, rfl⟩, rfl⟩, rfl⟩

theorem unarySlot_eq_next {s t : State} {ra : RegNo} {f : Word → Word} :
    unarySlot s ra f = .next t ↔ ra ≠ 15#4 ∧ ∃ x, s.reg? ra = some x ∧ t = s.afterWrite ra (f x) := by
  simp only [unarySlot, plainSlot_eq_next, andThen_eq_next, writeReg_eq_next, readReg_eq_next, State.enter_reg?]
  constructor
  · rintro ⟨u, ⟨x, hx, h, rfl⟩, rfl⟩
    exact ⟨h, x, hx, rfl⟩
  · rintro ⟨h, x, hx, rfl⟩
    exact ⟨_, ⟨x, hx, h, rfl⟩, rfl⟩

theorem shiftSlot_eq_next {s t : State} {ra : RegNo} {n : BitVec 5} {y1a : BitVec 5 → Bool} {f : Word → BitVec 5 → Word} :
    shiftSlot s ra n y1a f = .next t ↔ (s.plat.fullShifter || y1a n) = true ∧
      ra ≠ 15#4 ∧ ∃ x, s.reg? ra = some x ∧ t = s.afterWrite ra (f x n) := by
  by_cases h : (s.plat.fullShifter || y1a n) = true
  · simp only [shiftSlot, h, if_true, unarySlot_eq_next, true_and]
  · simp only [shiftSlot, h]; simp

theorem extSlot_eq_next {s t : State} {ra rb : RegNo} {f : Word → Word} :
    extSlot s ra rb f = .next t ↔ ra ≠ 15#4 ∧ ∃ x, s.reg? rb = some x ∧ t = s.afterWrite ra (f x) := by
  simp only [extSlot, plainSlot_eq_next, andThen_eq_next, writeReg_eq_next, readReg_eq_next, State.enter_reg?]
  constructor
  · rintro ⟨u, ⟨x, hx, h, rfl⟩, rfl⟩
    exact ⟨h, x, hx, rfl⟩
  · rintro ⟨h, x, hx, rfl⟩
    exact ⟨_, ⟨x, hx, h, rfl⟩, rfl⟩

/-! ## Skip shapes -/

theorem skipPair_eq_next {s t : State} {ra rb : RegNo} {c : Word → Word → Bool} :
    skipPair s ra rb c = .next t ↔ s.unhindered ∧
      ∃ x y, s.reg? ra = some x ∧ s.reg? rb = some y ∧ t = s.afterTest (c x y) := by
  simp only [skipPair, skipTest_eq_next, andThen_eq_next, readReg_eq_next, State.enter_reg?, Host.Outcome.next.injEq]
  refine and_congr_right fun _ => ⟨?_, ?_⟩
  · rintro ⟨b, ⟨x, hx, y, hy, rfl⟩, rfl⟩
    exact ⟨x, y, hx, hy, rfl⟩
  · rintro ⟨x, y, hx, hy, rfl⟩
    exact ⟨_, ⟨x, hx, y, hy, rfl⟩, rfl⟩

theorem skipUnary_eq_next {s t : State} {ra : RegNo} {c : Word → Bool} :
    skipUnary s ra c = .next t ↔ s.unhindered ∧ ∃ x, s.reg? ra = some x ∧ t = s.afterTest (c x) := by
  simp only [skipUnary, skipTest_eq_next, andThen_eq_next, readReg_eq_next, State.enter_reg?, Host.Outcome.next.injEq]
  refine and_congr_right fun _ => ⟨?_, ?_⟩
  · rintro ⟨b, ⟨x, hx, rfl⟩, rfl⟩
    exact ⟨x, hx, rfl⟩
  · rintro ⟨x, hx, rfl⟩
    exact ⟨_, ⟨x, hx, rfl⟩, rfl⟩

theorem skipFlag_eq_next {s t : State} {n : BitVec 4} {c : Bool → Bool} :
    skipFlag s n c = .next t ↔ s.unhindered ∧
      t = (s.enter.tookFlag.setSkip (c ((nextLevels s).getLsbD n.toNat)) .skip).setPc s.nextPc := by
  simp only [skipFlag, skipSlot_eq_next, plainSlot_eq_next, Host.Outcome.next.injEq, exists_eq_left']
  rfl

/-! ## Memory shapes -/

theorem withManualAccess_eq_next {s t : State} {r : Res State} :
    withManualAccess s r = .next t ↔ s.plat.rsManualAccess = true ∧ r = .next t := by
  by_cases h : s.plat.rsManualAccess = true <;> simp [withManualAccess, h]

/-- A load that writes a register: one read, then the write. -/
theorem loadSlot_eq_next {s t : State} {n : Size} {a : Word} {ra : RegNo} {ext : Word → Word} {ea : State → Word}
    (ha : ea s.enter = a) :
    (plainSlot s fun t => andThen (memRead n (ea t) t) fun p => writeReg p.2 ra (ext p.1)) = .next t ↔
      ra ≠ 15#4 ∧ ∃ p, memRead n a s.enter = .next p ∧ t = (p.2.setReg ra (ext p.1)).setPc s.nextPc := by
  simp only [plainSlot_eq_next, andThen_eq_next, writeReg_eq_next, ha]
  constructor
  · rintro ⟨u, ⟨p, hp, h, rfl⟩, rfl⟩
    exact ⟨h, p, hp, rfl⟩
  · rintro ⟨h, p, hp, rfl⟩
    exact ⟨_, ⟨p, hp, h, rfl⟩, rfl⟩

theorem loadPush_eq_next {s t : State} {ea : State → Word} :
    loadPush s ea = .next t ↔ s.plat.rsManualAccess = true ∧ ∃ p, memRead .quad (ea s.enter) s.enter = .next p ∧
      p.2.rs.length < p.2.plat.rsDepth ∧ t = (p.2.setRs (p.1 :: p.2.rs)).setPc s.nextPc := by
  simp only [loadPush, withManualAccess_eq_next, plainSlot_eq_next, andThen_eq_next, rsPush_eq_next]
  refine and_congr_right fun _ => ⟨?_, ?_⟩
  · rintro ⟨u, ⟨p, hp, h, rfl⟩, rfl⟩
    exact ⟨p, hp, h, rfl⟩
  · rintro ⟨p, hp, h, rfl⟩
    exact ⟨_, ⟨p, hp, h, rfl⟩, rfl⟩

theorem loadQuad_eq_next {s t : State} {ra : RegNo} {ea : State → Word} (h : ra ≠ 15#4) :
    loadQuad s ra ea = .next t ↔
      ∃ p, memRead .quad (ea s.enter) s.enter = .next p ∧ t = (p.2.setReg ra p.1).setPc s.nextPc := by
  simp only [loadQuad, if_neg h]
  exact (loadSlot_eq_next (ext := fun v => v) rfl).trans (by simp only [ne_eq, h, not_false_eq_true, true_and])

theorem loadPart_eq_next {s t : State} {n : Size} {ra rb : RegNo} {mode : AddrMode} {ext : Word → Word} :
    loadPart s n ra mode rb ext = .next t ↔ ra ≠ 15#4 ∧ ∃ p, memRead n (effAddr s mode rb) s.enter = .next p ∧
      t = (p.2.setReg ra (ext p.1)).setPc s.nextPc := by
  by_cases h : ra = 15#4
  · simp [loadPart, h]
  · simp only [loadPart, if_neg h]
    exact loadSlot_eq_next (ea := fun t => effAddr t mode rb) (by simp)

theorem storePop_eq_next {s t : State} {ea : State → Word} :
    storePop s ea = .next t ↔ s.plat.rsManualAccess = true ∧ ∃ v rest, s.rs = v :: rest ∧
      ∃ u, memWrite .quad (ea s.enter) v (s.enter.setRs rest) = .next u ∧ t = u.setPc s.nextPc := by
  simp only [storePop, withManualAccess_eq_next, plainSlot_eq_next, andThen_eq_next, rsPop_eq_next]
  refine and_congr_right fun _ => ⟨?_, ?_⟩
  · rintro ⟨u, ⟨⟨v, w⟩, ⟨hr, rfl⟩, hw⟩, rfl⟩
    exact ⟨v, _, hr, u, hw, rfl⟩
  · rintro ⟨v, rest, hr, u, hw, rfl⟩
    exact ⟨u, ⟨(v, s.enter.setRs rest), ⟨by simp [hr], by simp [hr]⟩, hw⟩, rfl⟩

theorem storeSlot_eq_next {s t : State} {n : Size} {ra : RegNo} {ea : State → Word} :
    (plainSlot s fun t => andThen (readReg t ra) fun x => memWrite n (ea t) x t) = .next t ↔
      ∃ x, s.reg? ra = some x ∧ ∃ u, memWrite n (ea s.enter) x s.enter = .next u ∧ t = u.setPc s.nextPc := by
  simp only [plainSlot_eq_next, andThen_eq_next, readReg_eq_next, State.enter_reg?]
  constructor
  · rintro ⟨u, ⟨x, hx, hu⟩, rfl⟩
    exact ⟨x, hx, u, hu, rfl⟩
  · rintro ⟨x, hx, u, hu, rfl⟩
    exact ⟨u, ⟨x, hx, hu⟩, rfl⟩

theorem storeQuad_eq_next {s t : State} {ra : RegNo} {ea : State → Word} (h : ra ≠ 15#4) :
    storeQuad s ra ea = .next t ↔
      ∃ x, s.reg? ra = some x ∧ ∃ u, memWrite .quad (ea s.enter) x s.enter = .next u ∧ t = u.setPc s.nextPc := by
  simp only [storeQuad, if_neg h]
  exact storeSlot_eq_next

theorem storePart_eq_next {s t : State} {n : Size} {ra rb : RegNo} {mode : AddrMode} :
    storePart s n ra mode rb = .next t ↔ ra ≠ 15#4 ∧ ∃ x, s.reg? ra = some x ∧
      ∃ u, memWrite n (effAddr s mode rb) x s.enter = .next u ∧ t = u.setPc s.nextPc := by
  by_cases h : ra = 15#4
  · simp [storePart, h]
  · simp only [storePart, ne_eq, h, not_false_eq_true, true_and]
    exact storeSlot_eq_next (ea := fun t => effAddr t mode rb)

end Sys2Proof.Machine
end

