-- ==== Sys2Proof/Tests/Slice0.lean ====
section
/-! SUPPORT. Tests. Words are written out from the encodings of spec/30_encoding.md; expected results are those of the
examples in the rules named and of spec/95_test_vectors.md. The witnesses at the end meet the hypotheses of each statement
of Certificates/Slice0/Obligations.lean. -/

namespace Sys2Proof.Tests

open Sys2Proof Sys2Proof.Machine

/-! ## Helpers -/

/-- The reset state with a `pc` and some registers. -/
def start (pc : Word) (regs : List (RegNo × Word)) : State :=
  (regs.foldl (fun s p => s.setReg p.1 p.2) State.reset).setPc pc

/-- A quad in memory. -/
def withQuad (s : State) (a v : Word) : State := { s with mem := s.mem.writeCells (operandCells .quad a v) }

/-- A region in front of MEM_MAP. -/
def withRegion (s : State) (r : Region) : State := { s with plat := { s.plat with map := r :: s.plat.map } }

/-- The Y1A's shifter. -/
def onY1a (s : State) : State := { s with plat := { s.plat with fullShifter := false } }

/-- One step with a word placed at `pc`. -/
def run (w : Nat) (s : State) : Res State := step (s.withFetchWord 16 w)

/-- A check of the next state; false for a stop. -/
def ends (r : Res State) (p : State → Bool) : Bool :=
  match r with
  | .next t => p t
  | _ => false

/-- The word run from `pc` = 0x200 leaves a value in r1 and goes to 0x202. -/
def gives (w : Nat) (regs : List (RegNo × Word)) (v : Word) : Bool :=
  ends (run w (start 0x200#32 regs)) fun t => t.reg? 1#4 == some v && t.pc == 0x202#32

/-- The word run from `pc` = 0x200 hands a skip test to the next slot. -/
def tests (w : Nat) (regs : List (RegNo × Word)) (k : SkipKind) (b : Bool) : Bool :=
  ends (run w (start 0x200#32 regs)) fun t => t.skipNext == b && t.skipKind == k && t.pc == 0x202#32

/-- The stop of a result. -/
def stopOf (r : Res State) : Option (Fault ⊕ Refusal) :=
  match r with
  | .next _ => none
  | .fault e => some (.inl e)
  | .refused e => some (.inr e)

/-! ## Well-formedness: a term of each check that it refuses -/

/-- Each check of `Instr.wellFormed` refuses a term. -/
theorem test_ill_formed_refused :
    Instr.wellFormed (.rol 3#4 1#5) = false ∧
    Instr.wellFormed (.undefRegOpb 7#3 0#1 1#4 2#4) = false ∧
    Instr.wellFormed (.mov 0#4 (.reg 0#4)) = false ∧
    Instr.wellFormed (.mov 9#4 (.simm 0#5)) = false ∧
    Instr.wellFormed (.xor 9#4 (.simm 31#5)) = false ∧
    Instr.wellFormed (.add 9#4 (.simm 1#5)) = false ∧
    Instr.wellFormed (.sub 9#4 (.simm 1#5)) = false ∧
    Instr.wellFormed (.rsub 9#4 (.simm 0#5)) = false ∧
    Instr.wellFormed (.ldq 15#4 .plain 2#4) = false ∧
    Instr.wellFormed (.ldqStack 15#4 .sp 2#4) = false ∧
    Instr.wellFormed (.stq 15#4 .imm 2#4) = false ∧
    Instr.wellFormed (.stqStack 15#4 .fp 2#4) = false ∧
    Instr.wellFormed (.undefCoproc 0x704#12) = false ∧
    Instr.wellFormed (.undefCoproc 0xF04#12) = false ∧
    Instr.wellFormed (.skipEq 0#4 0#4) = false ∧
    Instr.wellFormed (.skipNe 0#4 0#4) = false ∧
    Instr.wellFormed (.skipBs 4#4 31#5) = false ∧
    Instr.wellFormed (.skipBc 4#4 31#5) = false ∧
    Instr.wellFormed (.spamXorn 7#3 0xAA#8) = false ∧
    Instr.wellFormed (.undefJ 1#2 0#4 3#4) = false ∧
    Instr.wellFormed (.undefJ 1#2 1#4 3#4) = false ∧
    Instr.wellFormed (.undefJ 1#2 2#4 0#4) = false := by decide

/-! ## Decoding: a word of every row of the opcode table, written out field by field -/

/-- Formats L (R92, R104, R113). -/
theorem test_decode_formats_l :
    decodeWord 0b0000000000000000#16 = .nop ∧
    decodeWord 0b0000001000000011#16 = .clr 3#4 ∧
    decodeWord 0b0011001111110110#16 = .not 6#4 ∧
    decodeWord 0b0000000001110011#16 = .mov 3#4 (.reg 7#4) ∧
    decodeWord 0b0000101000000101#16 = .movNot 5#4 (.simm 0#5) ∧
    decodeWord 0b0001011011011101#16 = .and 13#4 (.mask 13#5) ∧
    decodeWord 0b0001110001110001#16 = .andNot 1#4 (.pow2 7#5) ∧
    decodeWord 0b0010010111110001#16 = .or 1#4 (.pow2 31#5) ∧
    decodeWord 0b0010100000100001#16 = .orNot 1#4 (.reg 2#4) ∧
    decodeWord 0b0011000000010001#16 = .xor 1#4 (.reg 1#4) ∧
    decodeWord 0b0011101100000010#16 = .xorNot 2#4 (.simm 16#5) := by decide

/-- Format A (R93, R104, R110, R113). -/
theorem test_decode_format_a :
    decodeWord 0b0100001000011110#16 = .inc 14#4 ∧
    decodeWord 0b0101001000010001#16 = .dec 1#4 ∧
    decodeWord 0b0110001000000001#16 = .neg 1#4 ∧
    decodeWord 0b0100010001100000#16 = .add 0#4 (.pow2 6#5) ∧
    decodeWord 0b0100101111110000#16 = .addSnc 0#4 (.simm 31#5) ∧
    decodeWord 0b0101000001000000#16 = .sub 0#4 (.reg 4#4) ∧
    decodeWord 0b0101101000011101#16 = .subSnb 13#4 (.simm 1#5) ∧
    decodeWord 0b0110010001011110#16 = .rsub 14#4 (.pow2 5#5) ∧
    decodeWord 0b0110101000000001#16 = .rsubSnb 1#4 (.simm 0#5) ∧
    decodeWord 0b0101000101000011#16 = .undefRegOpb 5#3 0#1 3#4 4#4 ∧
    decodeWord 0b0100100101000011#16 = .undefRegOpb 4#3 1#1 3#4 4#4 := by decide

/-- Formats S and X (R94, R95). -/
theorem test_decode_formats_s_x :
    decodeWord 0b0111101000010001#16 = .rolOne 1#4 ∧
    decodeWord 0b0111000111110010#16 = .lsr 2#4 31#5 ∧
    decodeWord 0b0111001000110010#16 = .lsl 2#4 3#5 ∧
    decodeWord 0b0111010100000010#16 = .asr 2#4 16#5 ∧
    decodeWord 0b0111011110000001#16 = .flip 1#4 24#5 ∧
    decodeWord 0b0111100010000001#16 = .ror 1#4 8#5 ∧
    decodeWord 0b0111101001000001#16 = .rol 1#4 4#5 ∧
    decodeWord 0b0111110000110010#16 = .extUw 2#4 3#4 ∧
    decodeWord 0b0111110100110010#16 = .extSw 2#4 3#4 ∧
    decodeWord 0b0111111000110010#16 = .extUb 2#4 3#4 ∧
    decodeWord 0b0111111100110010#16 = .extSb 2#4 3#4 := by decide

/-- Format M (R96, R184, R191, R192, R197, R200, R201). -/
theorem test_decode_format_m :
    decodeWord 0b1000001001001111#16 = .ldqRs (.normal .plain 4#4) ∧
    decodeWord 0b1000100000001111#16 = .ldqRs (.stack .sp 0#4) ∧
    decodeWord 0b1000100011000000#16 = .ldqStack 0#4 .sp 12#4 ∧
    decodeWord 0b1000001101000001#16 = .undefLdQuadSign 0#1 1#1 1#4 4#4 ∧
    decodeWord 0b1000101001000000#16 = .ldq 0#4 .imm 4#4 ∧
    decodeWord 0b1000010001000001#16 = .lduw 1#4 .plain 4#4 ∧
    decodeWord 0b1000010101000001#16 = .ldsw 1#4 .plain 4#4 ∧
    decodeWord 0b1000111001110001#16 = .ldub 1#4 .imm 7#4 ∧
    decodeWord 0b1000011110110000#16 = .ldsb 0#4 .plain 11#4 ∧
    decodeWord 0b1001001001001111#16 = .stqRs (.normal .plain 4#4) ∧
    decodeWord 0b1001000000011111#16 = .stqRs (.stack .fp 1#4) ∧
    decodeWord 0b1001000000010001#16 = .stqStack 1#4 .fp 1#4 ∧
    decodeWord 0b1001001010010000#16 = .stq 0#4 .plain 9#4 ∧
    decodeWord 0b1001010001100001#16 = .stw 1#4 .plain 6#4 ∧
    decodeWord 0b1001011001110001#16 = .stb 1#4 .plain 7#4 ∧
    decodeWord 0b1001100101000001#16 = .undefLeaSize 1#1 1#4 4#4 ∧
    decodeWord 0b1001001101000001#16 = .lea 1#4 .plain .s01 4#4 ∧
    decodeWord 0b1001110101000001#16 = .lea 1#4 .imm .s10 4#4 ∧
    decodeWord 0b1001011111110001#16 = .lea 1#4 .plain .s11 15#4 := by decide

/-- Formats W and C (R97, R98). -/
theorem test_decode_formats_w_c :
    decodeWord 0b1010111111111111#16 = .ldi 4095#12 ∧
    decodeWord 0b1011000011111011#16 = .imm12 0x0FB#12 ∧
    decodeWord 0b1100011100000100#16 = .di ∧
    decodeWord 0b1100111100000100#16 = .ei ∧
    decodeWord 0b1100011100000101#16 = .undefCoproc 0x705#12 := by decide

/-- Format K, register pairs (R99). -/
theorem test_decode_format_k_pairs :
    decodeWord 0b1101010000000000#16 = .skipA ∧
    decodeWord 0b1101110000000000#16 = .skipN ∧
    decodeWord 0b1101000000110010#16 = .skipLo 2#4 3#4 ∧
    decodeWord 0b1101100000110010#16 = .skipHs 2#4 3#4 ∧
    decodeWord 0b1101000100110010#16 = .skipLs 2#4 3#4 ∧
    decodeWord 0b1101100100110010#16 = .skipHi 2#4 3#4 ∧
    decodeWord 0b1101001000110010#16 = .skipLt 2#4 3#4 ∧
    decodeWord 0b1101101000110010#16 = .skipGe 2#4 3#4 ∧
    decodeWord 0b1101001100110010#16 = .skipLe 2#4 3#4 ∧
    decodeWord 0b1101101101000000#16 = .skipGt 0#4 4#4 ∧
    decodeWord 0b1101010000110010#16 = .skipEq 2#4 3#4 ∧
    decodeWord 0b1101110010110000#16 = .skipNe 0#4 11#4 := by decide

/-- Format K, the rest (R99, R110, R113). -/
theorem test_decode_format_k_unary :
    decodeWord 0b1101010100000101#16 = .skipZ 5#4 ∧
    decodeWord 0b1101110100001011#16 = .skipNz 11#4 ∧
    decodeWord 0b1101010100010101#16 = .skipAwz 5#4 ∧
    decodeWord 0b1101110100010101#16 = .skipNwz 5#4 ∧
    decodeWord 0b1101010100100101#16 = .skipAbz 5#4 ∧
    decodeWord 0b1101110100100101#16 = .skipNbz 5#4 ∧
    decodeWord 0b1101010101000011#16 = .skipLez 3#4 ∧
    decodeWord 0b1101110101000000#16 = .skipGtz 0#4 ∧
    decodeWord 0b1101010101010101#16 = .skipAwm 5#4 ∧
    decodeWord 0b1101110101010101#16 = .skipNwm 5#4 ∧
    decodeWord 0b1101010101100101#16 = .skipAbm 5#4 ∧
    decodeWord 0b1101110101100101#16 = .skipNbm 5#4 ∧
    decodeWord 0b1101010100110001#16 = .undefScc 0#1 1#4 ∧
    decodeWord 0b1101010101111110#16 = .skipFs 14#4 ∧
    decodeWord 0b1101110101111111#16 = .skipFc 15#4 ∧
    decodeWord 0b1101010110110011#16 = .skipCpt 3#3 3#4 ∧
    decodeWord 0b1101110111110001#16 = .skipCpf 7#3 1#4 ∧
    decodeWord 0b1101011111110011#16 = .skipMi 3#4 ∧
    decodeWord 0b1101111111110011#16 = .skipPl 3#4 ∧
    decodeWord 0b1101011001000000#16 = .skipBs 0#4 4#5 ∧
    decodeWord 0b1101111111100001#16 = .skipBc 1#4 30#5 := by decide

/-- Formats B and P (R100, R101). -/
theorem test_decode_formats_b_p :
    decodeWord 0b1110000111111110#16 = .braD 0x1FE#9 ∧
    decodeWord 0b1110001111110100#16 = .bra 0x1F4#9 ∧
    decodeWord 0b1110010000010000#16 = .bsrD 0x010#9 ∧
    decodeWord 0b1110011000100011#16 = .bsr 0x023#9 ∧
    decodeWord 0b1110100000010000#16 = .lbraD 0x010#9 ∧
    decodeWord 0b1110101111111111#16 = .lbra 0x1FF#9 ∧
    decodeWord 0b1110110000000100#16 = .lbsrD 0x004#9 ∧
    decodeWord 0b1110111000000100#16 = .lbsr 0x004#9 ∧
    decodeWord 0b1111011110101011#16 = .spamAnd 0xAB#8 ∧
    decodeWord 0b1111001110101010#16 = .spamXorn 3#3 0xAA#8 := by decide

/-- Formats J and T (R102, R103, R110). -/
theorem test_decode_formats_j_t :
    decodeWord 0b1111100000000001#16 = .jmpD 1#4 ∧
    decodeWord 0b1111101000000001#16 = .jmp 1#4 ∧
    decodeWord 0b1111110000000001#16 = .jsrD 1#4 ∧
    decodeWord 0b1111111000001011#16 = .jsr 11#4 ∧
    decodeWord 0b1111100000010011#16 = .rbraD 3#4 ∧
    decodeWord 0b1111101000010011#16 = .rbra 3#4 ∧
    decodeWord 0b1111110000010010#16 = .rbsrD 2#4 ∧
    decodeWord 0b1111111000010010#16 = .rbsr 2#4 ∧
    decodeWord 0b1111100000100000#16 = .rtsD ∧
    decodeWord 0b1111101000100000#16 = .rts ∧
    decodeWord 0b1111110000100000#16 = .rtiD ∧
    decodeWord 0b1111111000100000#16 = .rti ∧
    decodeWord 0b1111110101111111#16 = .trapD 0x7F#8 ∧
    decodeWord 0b1111111100000000#16 = .trap 0x00#8 ∧
    decodeWord 0b1111101101010101#16 = .undefBit10 1#1 0x55#8 ∧
    decodeWord 0b1111101000100001#16 = .undefJ 1#2 2#4 1#4 ∧
    decodeWord 0b1111111011110000#16 = .undefJ 3#2 15#4 0#4 := by decide

/-- The word is two bytes, the high one first (R65, R90); half a word is rejected by name. -/
theorem test_decode_bytes :
    decodeBytes [0x00#8, 0xED#8, 0x44#8] = .ok (.mov 13#4 (.reg 14#4), [0x44#8]) ∧
    decodeBytes [0x00#8] = .error .truncated ∧
    decodeTableWord 16 0x4290 = some (.add 0#4 (.simm 9#5)) := ⟨rfl, rfl, rfl⟩

/-! ## Logical and move group (95_test_vectors.md 2.1, 2.2) -/

theorem test_mov :
    gives 0x0021 [(1#4, 0xF0F0A5A5#32), (2#4, 0x0FF00FF0#32)] 0x0FF00FF0#32 = true ∧
    gives 0x0301 [(1#4, 0xF0F0A5A5#32), (2#4, 0x0FF00FF0#32)] 0xFFFFFFF0#32 = true := by decide

theorem test_mov_not :
    gives 0x0821 [(1#4, 0xF0F0A5A5#32), (2#4, 0x0FF00FF0#32)] 0xF00FF00F#32 = true ∧
    gives 0x0C31 [(1#4, 0xF0F0A5A5#32), (2#4, 0x0FF00FF0#32)] 0xFFFFFFF7#32 = true := by decide

theorem test_and_and_not :
    gives 0x1021 [(1#4, 0xF0F0A5A5#32), (2#4, 0x0FF00FF0#32)] 0x00F005A0#32 = true ∧
    gives 0x1821 [(1#4, 0xF0F0A5A5#32), (2#4, 0x0FF00FF0#32)] 0xF000A005#32 = true := by decide

theorem test_or_or_not :
    gives 0x2021 [(1#4, 0xF0F0A5A5#32), (2#4, 0x0FF00FF0#32)] 0xFFF0AFF5#32 = true ∧
    gives 0x2821 [(1#4, 0xF0F0A5A5#32), (2#4, 0x0FF00FF0#32)] 0xF0FFF5AF#32 = true := by decide

theorem test_xor_xor_not :
    gives 0x3021 [(1#4, 0xF0F0A5A5#32), (2#4, 0x0FF00FF0#32)] 0xFF00AA55#32 = true ∧
    gives 0x3821 [(1#4, 0xF0F0A5A5#32), (2#4, 0x0FF00FF0#32)] 0x00FF55AA#32 = true := by decide

theorem test_nop_clr_not :
    gives 0x0000 [(1#4, 0xF0F0A5A5#32), (2#4, 0x0FF00FF0#32)] 0xF0F0A5A5#32 = true ∧
    gives 0x0201 [(1#4, 0xF0F0A5A5#32), (2#4, 0x0FF00FF0#32)] 0x00000000#32 = true ∧
    gives 0x33F1 [(1#4, 0xF0F0A5A5#32), (2#4, 0x0FF00FF0#32)] 0x0F0F5A5A#32 = true := by decide

/-- The ends of the short immediates (R104). -/
theorem test_operand_b_limits :
    gives 0x03F1 [(1#4, 0xF0F0A5A5#32), (2#4, 0x0FF00FF0#32)] 0xFFFFFFFF#32 = true ∧
    gives 0x05F1 [(1#4, 0xF0F0A5A5#32), (2#4, 0x0FF00FF0#32)] 0x80000000#32 = true ∧
    gives 0x0601 [(1#4, 0xF0F0A5A5#32), (2#4, 0x0FF00FF0#32)] 0x00000000#32 = true ∧
    gives 0x07F1 [(1#4, 0xF0F0A5A5#32), (2#4, 0x0FF00FF0#32)] 0x7FFFFFFF#32 = true := by decide

/-! ## Arithmetic, shift and extend groups (95_test_vectors.md 2.3 to 2.6) -/

theorem test_add_wraps :
    gives 0x4021 [(1#4, 0x7FFFFFFF#32), (2#4, 0x1#32)] 0x80000000#32 = true ∧
    gives 0x4211 [(1#4, 0xFFFFFFFF#32)] 0x00000000#32 = true := by decide

theorem test_sub_rsub_order :
    gives 0x5021 [(1#4, 0x5#32), (2#4, 0x7#32)] 0xFFFFFFFE#32 = true ∧
    gives 0x6021 [(1#4, 0x5#32), (2#4, 0x7#32)] 0x00000002#32 = true := by decide

theorem test_dec_neg :
    gives 0x5211 [(1#4, 0x0#32)] 0xFFFFFFFF#32 = true ∧
    gives 0x6201 [(1#4, 0x0#32)] 0x00000000#32 = true ∧
    gives 0x6201 [(1#4, 0x80000000#32)] 0x80000000#32 = true := by decide

theorem test_add_snc :
    gives 0x4821 [(1#4, 0x80000000#32), (2#4, 0x80000000#32)] 0x00000000#32 = true ∧
    tests 0x4821 [(1#4, 0x80000000#32), (2#4, 0x80000000#32)] .cskip false = true ∧
    tests 0x4BF1 [(1#4, 0x0#32)] .cskip true = true := by decide

theorem test_sub_snb :
    gives 0x5821 [(1#4, 0x5#32), (2#4, 0x7#32)] 0xFFFFFFFE#32 = true ∧
    tests 0x5821 [(1#4, 0x5#32), (2#4, 0x7#32)] .cskip false = true ∧
    tests 0x5821 [(1#4, 0x5#32), (2#4, 0x5#32)] .cskip true = true := by decide

theorem test_rsub_snb :
    gives 0x6821 [(1#4, 0x7#32), (2#4, 0x5#32)] 0xFFFFFFFE#32 = true ∧
    tests 0x6821 [(1#4, 0x7#32), (2#4, 0x5#32)] .cskip false = true ∧
    tests 0x6A01 [(1#4, 0x0#32)] .cskip true = true := by decide

theorem test_shifts_right :
    gives 0x7041 [(1#4, 0x12345678#32)] 0x01234567#32 = true ∧
    gives 0x7441 [(1#4, 0x12345678#32)] 0x01234567#32 = true ∧
    gives 0x71F1 [(1#4, 0x80000001#32)] 0x00000001#32 = true ∧
    gives 0x75F1 [(1#4, 0x80000001#32)] 0xFFFFFFFF#32 = true := by decide

theorem test_shift_left :
    gives 0x7241 [(1#4, 0x12345678#32)] 0x23456780#32 = true ∧
    gives 0x73F1 [(1#4, 0x80000001#32)] 0x80000000#32 = true := by decide

theorem test_rotates :
    gives 0x7841 [(1#4, 0x12345678#32)] 0x81234567#32 = true ∧
    gives 0x7A41 [(1#4, 0x12345678#32)] 0x23456781#32 = true ∧
    gives 0x7801 [(1#4, 0x80000001#32)] 0x80000001#32 = true ∧
    gives 0x7A11 [(1#4, 0x80000001#32)] 0x00000003#32 = true := by decide

theorem test_flip :
    gives 0x7781 [(1#4, 0x12345678#32)] 0x78563412#32 = true ∧
    gives 0x7671 [(1#4, 0x01020380#32)] 0x8040C001#32 = true := by decide

/-- R163. -/
theorem test_y1a_shifter :
    ends (run 0x7A21 (onY1a (start 0x200#32 [(1#4, 0x80000001#32)])))
      (fun t => t.reg? 1#4 == some 0x00000006#32) = true ∧
    stopOf (run 0x7021 (onY1a (start 0x200#32 [(1#4, 0x80000001#32)]))) = some (.inr .shifterCount) ∧
    stopOf (run 0x7001 (onY1a (start 0x200#32 [(1#4, 0x80000001#32)]))) = some (.inr .shifterCount) := by decide

theorem test_ext_wyde :
    gives 0x7C21 [(1#4, 0xDEADBEEF#32), (2#4, 0x1234ABCD#32)] 0x0000ABCD#32 = true ∧
    gives 0x7D21 [(1#4, 0xDEADBEEF#32), (2#4, 0x1234ABCD#32)] 0xFFFFABCD#32 = true := by decide

theorem test_ext_byte :
    gives 0x7E21 [(1#4, 0xDEADBEEF#32), (2#4, 0x1234ABCD#32)] 0x000000CD#32 = true ∧
    gives 0x7F21 [(1#4, 0xDEADBEEF#32), (2#4, 0x1234ABCD#32)] 0xFFFFFFCD#32 = true := by decide

/-! ## Memory group (95_test_vectors.md 2.7 to 2.9) -/

/-- The start state of the load rows. -/
def forLoads : State :=
  withQuad (withQuad (start 0x200#32 [(4#4, 0x1000#32), (7#4, 0x1003#32), (12#4, 0x1000#32), (13#4, 0xFD4#32),
    (14#4, 4#32)]) 0x1000#32 0x80017FFE#32) 0x1004#32 0x12345678#32

/-- The word run from `forLoads` leaves a value in r1. -/
def loads (w : Nat) (v : Word) : Bool := ends (run w forLoads) fun t => t.reg? 1#4 == some v && t.mem == (forLoads.withFetchWord 16 w).mem

/-- The start state of the store rows. -/
def forStores : State :=
  (start 0x200#32 [(1#4, 0xA1B2C3D4#32), (4#4, 0x1000#32), (6#4, 0x1002#32), (7#4, 0x1003#32), (13#4, 0xFD4#32),
    (14#4, 4#32)]).setRs [0x104#32]

/-- The word run from `forStores` leaves quads at 0x1000 and 0x1004. -/
def stores (w : Nat) (v u : Word) : Bool :=
  ends (run w forStores) fun t => t.mem.readOperand .quad 0x1000#32 == v && t.mem.readOperand .quad 0x1004#32 == u

theorem test_load_quad :
    loads 0x8241 0x80017FFE#32 = true ∧
    loads 0x8A41 0x12345678#32 = true := by decide

theorem test_load_quad_stack :
    loads 0x88C1 0x12345678#32 = true ∧
    loads 0x8001 0x80017FFE#32 = true := by decide

theorem test_load_wyde :
    loads 0x8441 0x00008001#32 = true ∧
    loads 0x8541 0xFFFF8001#32 = true := by decide

theorem test_load_byte :
    loads 0x8E71 0x00000078#32 = true ∧
    loads 0x8771 0xFFFFFFFE#32 = true := by decide

theorem test_load_pushes :
    ends (run 0x824F forLoads) (fun t => t.rs == [0x80017FFE#32]) = true ∧
    stopOf (run 0x844F forLoads) = some (.inr .rsNonQuad) := by decide

theorem test_load_misaligned :
    stopOf (run 0x8271 forLoads) = some (.inl (.misalignedRead 0x1003#32 .quad)) := by decide

/-- The base r15 is the address of the instruction itself (R24, R26). -/
theorem test_load_from_pc :
    ends (run 0x82F1 (start 0x200#32 [])) (fun t => t.reg? 1#4 == some 0x82F10000#32) = true := by decide

theorem test_store_quad :
    stores 0x9241 0xA1B2C3D4#32 0#32 = true ∧
    stores 0x98C1 0#32 0xA1B2C3D4#32 = true := by decide

theorem test_store_wyde_byte :
    stores 0x9461 0x0000C3D4#32 0#32 = true ∧
    stores 0x9671 0x000000D4#32 0#32 = true := by decide

theorem test_store_pops :
    ends (run 0x924F forStores)
      (fun t => t.rs == [] && t.mem.readOperand .quad 0x1000#32 == 0x104#32) = true := by decide

theorem test_store_misaligned :
    stopOf (run 0x9261 forStores) = some (.inl (.misalignedWrite 0x1002#32 .quad)) := by decide

/-- What a store writes is no longer fetched (R74). -/
theorem test_store_marks_written :
    ends (run 0x9461 forStores) (fun t => t.written == [0x1002, 0x1003]) = true := by decide

theorem test_lea :
    ends (run 0x9541 (start 0x200#32 [(4#4, 0x1001#32)])) (fun t => t.reg? 1#4 == some 0x1001#32) = true ∧
    ends (run 0x9BF1 (start 0x202#32 [(14#4, 0x40#32)])) (fun t => t.reg? 1#4 == some 0x242#32) = true := by decide

theorem test_ldi :
    ends (run 0xA003 (withQuad (start 0x102#32 []) 0x10C#32 0xDEADBEEF#32))
      (fun t => t.reg? 14#4 == some 0xDEADBEEF#32) = true ∧
    ends (run 0xAFFF (withQuad (start 0x206#32 []) 0x4200#32 0x00C0FFEE#32))
      (fun t => t.reg? 14#4 == some 0x00C0FFEE#32) = true := by decide

theorem test_imm12 :
    ends (run 0xB7FF (start 0#32 [])) (fun t => t.reg? 14#4 == some 0x000007FF#32) = true ∧
    ends (run 0xB800 (start 0#32 [])) (fun t => t.reg? 14#4 == some 0xFFFFF800#32) = true := by decide

theorem test_di_ei :
    ends (run 0xCF04 (start 0x200#32 [])) (fun t => t.ie) = true ∧
    ends (run 0xC704 ((start 0x200#32 []).setIe true)) (fun t => !t.ie) = true := by decide

/-- R71, R325. -/
theorem test_device_access :
    ends (run 0x9241 (withRegion { forStores with devIn := [7#32] } { base := 0x1000, bytes := 4, kind := .device }))
      (fun t => t.devLog == [.write 0x1000#32 .quad 0xA1B2C3D4#32] && t.mem.read 0x1000 == 0#8) = true ∧
    ends (run 0x8741
      (withRegion { forLoads with devIn := [0x1F0#32] } { base := 0x1000, bytes := 4, kind := .device }))
      (fun t => t.reg? 1#4 == some 0xFFFFFFF0#32 && t.devLog == [.read 0x1000#32 .byte 0xF0#32] && t.devIn == []) =
      true := by decide

/-- R62, R66, log 43: a quad whose last two bytes are a device's. -/
theorem test_boundary_inside_quad :
    ends (run 0x8241 (withRegion { forLoads with devIn := [0x01020304#32] } { base := 0x1002, bytes := 2, kind := .device }))
      (fun t => t.reg? 1#4 == some 0x80010304#32 && t.devLog == [.read 0x1000#32 .quad 0x80010304#32]) = true ∧
    ends (run 0x9241 (withRegion forStores { base := 0x1002, bytes := 2, kind := .device }))
      (fun t => t.mem.readOperand .quad 0x1000#32 == 0xA1B20000#32 && t.written == [0x1000, 0x1001, 0x1002, 0x1003] &&
        t.devLog == [.write 0x1000#32 .quad 0xA1B2C3D4#32]) = true := by decide

/-! ## Skips and SPAM (95_test_vectors.md 2.10 to 2.12) -/

theorem test_skip_lo_hs :
    tests 0xD021 [(1#4, 0x80000000#32), (2#4, 0x7FFFFFFF#32)] .skip false = true ∧
    tests 0xD821 [(1#4, 0x80000000#32), (2#4, 0x7FFFFFFF#32)] .skip true = true := by decide

theorem test_skip_ls_hi :
    tests 0xD121 [(1#4, 0x7FFFFFFF#32), (2#4, 0x80000000#32)] .skip true = true ∧
    tests 0xD921 [(1#4, 0x7FFFFFFF#32), (2#4, 0x80000000#32)] .skip false = true := by decide

theorem test_skip_lt_ge :
    tests 0xD221 [(1#4, 0x80000000#32), (2#4, 0x7FFFFFFF#32)] .skip true = true ∧
    tests 0xDA21 [(1#4, 0x80000000#32), (2#4, 0x7FFFFFFF#32)] .skip false = true := by decide

theorem test_skip_le_gt :
    tests 0xD321 [(1#4, 0x7FFFFFFF#32), (2#4, 0x80000000#32)] .skip false = true ∧
    tests 0xDB21 [(1#4, 0x7FFFFFFF#32), (2#4, 0x80000000#32)] .skip true = true := by decide

theorem test_skip_eq_ne :
    tests 0xD421 [(1#4, 0x2#32), (2#4, 0x2#32)] .skip true = true ∧
    tests 0xDC21 [(1#4, 0x2#32), (2#4, 0x2#32)] .skip false = true := by decide

theorem test_skip_always_never :
    tests 0xD400 [] .skip true = true ∧
    tests 0xDC00 [] .skip false = true := by decide

theorem test_skip_z_nz :
    tests 0xD501 [(1#4, 0x0#32)] .skip true = true ∧
    tests 0xDD01 [(1#4, 0x0#32)] .skip false = true := by decide

theorem test_skip_awz_nwz :
    tests 0xD511 [(1#4, 0x00010000#32)] .skip true = true ∧
    tests 0xDD11 [(1#4, 0x7FFF8000#32)] .skip true = true := by decide

theorem test_skip_abz_nbz :
    tests 0xD521 [(1#4, 0x01000101#32)] .skip true = true ∧
    tests 0xDD21 [(1#4, 0x01010101#32)] .skip true = true := by decide

theorem test_skip_lez_gtz :
    tests 0xD541 [(1#4, 0x80000000#32)] .skip true = true ∧
    tests 0xDD41 [(1#4, 0x7FFFFFFF#32)] .skip true = true := by decide

theorem test_skip_awm_nwm :
    tests 0xD551 [(1#4, 0x00008000#32)] .skip true = true ∧
    tests 0xDD51 [(1#4, 0x00800000#32)] .skip true = true := by decide

theorem test_skip_abm_nbm :
    tests 0xD561 [(1#4, 0x00800000#32)] .skip true = true ∧
    tests 0xDD61 [(1#4, 0x7F7F7F7F#32)] .skip true = true := by decide

theorem test_skip_bs_bc :
    tests 0xD641 [(1#4, 0x80000010#32)] .skip true = true ∧
    tests 0xDE41 [(1#4, 0x80000010#32)] .skip false = true := by decide

theorem test_skip_mi_pl :
    tests 0xD7F1 [(1#4, 0x80000010#32)] .skip true = true ∧
    tests 0xDFF1 [(1#4, 0x80000010#32)] .skip false = true := by decide

theorem test_skip_fs_fc :
    ends (run 0xD57E { start 0x200#32 [] with flagIn := [0x8001#16] }) (fun t => !t.skipNext && t.flagIn == []) = true ∧
    ends (run 0xDD7E { start 0x200#32 [] with flagIn := [0x8001#16] }) (fun t => t.skipNext) = true ∧
    ends (run 0xD57F { start 0x200#32 [] with flagIn := [0x8001#16] }) (fun t => t.skipNext) = true := by decide

/-- A nullified store makes no access (2.11). -/
theorem test_nullified_store_does_nothing :
    ends (run 0x9211 ((start 0x202#32 [(1#4, 1#32)]).setSkip true .skip))
      (fun t => t.pc == 0x204#32 && t.mem == [(0x202, 0x92#8), (0x203, 0x11#8)] && !t.skipNext) = true := by decide

theorem test_nullified_trap_does_nothing :
    ends (run 0xFF00 ((start 0x202#32 []).setSkip true .skip)) (fun t => t.pc == 0x204#32) = true := by decide

theorem test_spam_and :
    ends (run 0xF7AB ((start 0x204#32 []).setSkip true .skip)) (fun t => t.sv == 0xAB#8 && !t.skipNext) = true ∧
    ends (run 0xF7AB ((start 0x204#32 []).setSkip false .skip)) (fun t => t.sv == 0x00#8) = true := by decide

theorem test_spam_xorn :
    ends (run 0xF3AA ((start 0x204#32 []).setSkip true .skip)) (fun t => t.sv == 0xA8#8) = true ∧
    ends (run 0xF3AA ((start 0x204#32 []).setSkip false .skip)) (fun t => t.sv == 0x50#8) = true := by decide

/-- The trace of 2.12. -/
theorem test_skip_vector_scans_left :
    ends (run 0x4211 ((start 0x206#32 []).setSv 0xAB#8)) (fun t => t.reg? 1#4 == some 0#32 && t.sv == 0x56#8) = true ∧
    ends (run 0x4211 ((start 0x208#32 []).setSv 0x56#8))
      (fun t => t.reg? 1#4 == some 1#32 && t.sv == 0xAC#8) = true := by decide

/-- R224. -/
theorem test_placement :
    stopOf (run 0xF7FF (start 0x200#32 [])) = some (.inr .spamNotInShadow) ∧
    stopOf (run 0xD400 ((start 0x204#32 []).setSv 0x40#8)) = some (.inr .skipUnderVector) ∧
    stopOf (run 0xE210 ((start 0x204#32 []).setSv 0x40#8)) = some (.inr .transferUnderVector) ∧
    stopOf (run 0xE210 ((start 0x202#32 []).setDelay (some 0x220#32))) = some (.inr .transferInDelaySlot) ∧
    stopOf (run 0x5A11 ((start 0x202#32 []).setDelay (some 0x220#32))) = some (.inr .skipInDelaySlot) := by decide

/-! ## Control transfer (95_test_vectors.md 2.13) -/

/-- The word run from a state goes to `pc`, with the delay target and the return stack after it. -/
def goes (w : Nat) (s : State) (pc : Word) (d : Option Word) (rs : List Word) : Bool :=
  ends (run w s) fun t => t.pc == pc && t.delayTarget == d && t.rs == rs

theorem test_bra :
    goes 0xE300 (start 0x200#32 []) 0x000#32 none [] = true ∧
    goes 0xE3FF (start 0#32 []) 0xFFFFFFFE#32 none [] = true := by decide

theorem test_bra_d :
    goes 0xE1FE (start 0xBA#32 []) 0xBC#32 (some 0xB6#32) [] = true := by decide

theorem test_bsr_bsr_d :
    goes 0xE623 (start 0x30#32 []) 0x76#32 none [0x32#32] = true ∧
    goes 0xE410 (start 0x100#32 []) 0x102#32 (some 0x120#32) [0x104#32] = true := by decide

theorem test_lbra_lbra_d :
    goes 0xEBFF (start 0x102#32 [(14#4, 0xFFFFFFFF#32)]) 0x100#32 none [] = true ∧
    goes 0xE810 (start 0x200#32 [(14#4, 2#32)]) 0x202#32 (some 0xA20#32) [] = true := by decide

theorem test_lbsr_lbsr_d :
    goes 0xEE04 (start 0x202#32 [(14#4, 2#32)]) 0xA0A#32 none [0x204#32] = true ∧
    goes 0xEC04 (start 0x202#32 [(14#4, 2#32)]) 0x204#32 (some 0xA0A#32) [0x206#32] = true := by decide

theorem test_jmp_jmp_d :
    goes 0xFA01 (start 0x200#32 [(1#4, 0x1000#32)]) 0x1000#32 none [] = true ∧
    goes 0xF801 (start 0x200#32 [(1#4, 0x1000#32)]) 0x202#32 (some 0x1000#32) [] = true := by decide

theorem test_jsr_jsr_d :
    goes 0xFE0B (start 0x2C#32 [(11#4, 0x30#32)]) 0x30#32 none [0x2E#32] = true ∧
    goes 0xFC01 (start 0x200#32 [(1#4, 0x1000#32)]) 0x202#32 (some 0x1000#32) [0x204#32] = true := by decide

theorem test_rbra_rbra_d :
    goes 0xFA13 (start 0x200#32 [(3#4, 0xFFFFFFF0#32)]) 0x1F0#32 none [] = true ∧
    goes 0xF813 (start 0x200#32 [(3#4, 0x10#32)]) 0x202#32 (some 0x210#32) [] = true := by decide

theorem test_rbsr_rbsr_d :
    goes 0xFE12 (start 0x100#32 [(2#4, 0x40#32)]) 0x140#32 none [0x102#32] = true ∧
    goes 0xFC12 (start 0x100#32 [(2#4, 0x40#32)]) 0x102#32 (some 0x140#32) [0x104#32] = true := by decide

theorem test_rts_rts_d :
    goes 0xFA20 ((start 0x200#32 []).setRs [0x32#32, 0x104#32]) 0x032#32 none [0x104#32] = true ∧
    goes 0xF820 ((start 0x200#32 []).setRs [0x32#32, 0x104#32]) 0x202#32 (some 0x32#32) [0x104#32] = true := by decide

theorem test_delay_slot_goes_to_target :
    goes 0x4211 ((start 0x202#32 []).setDelay (some 0x220#32)) 0x220#32 none [] = true := by decide

/-- 2.14. -/
theorem test_return_stack_limits :
    stopOf (run 0xE601 ((start 0x220#32 []).setRs (List.replicate 16 0x100#32))) = some (.inl .rsOverflow) ∧
    ends (run 0xE601 ((start 0x220#32 []).setRs (List.replicate 15 0x100#32))) (fun t => t.rs.length == 16) = true ∧
    stopOf (run 0xFA20 (start 0x200#32 [])) = some (.inl .rsUnderflow) := by decide

theorem test_stops :
    stopOf (run 0xFE20 (start 0x200#32 [])) = some (.inr .rtiUndefined) ∧
    stopOf (run 0xFD7F (start 0x200#32 [])) = some (.inr (.trapUndefined 0x7F#8)) ∧
    stopOf (run 0xC000 (start 0x200#32 [])) = some (.inr .coprocessorWord) ∧
    stopOf (run 0xD581 (start 0x200#32 [])) = some (.inr .coprocessorSkip) ∧
    stopOf (run 0x0121 (start 0x200#32 [])) = some (.inr .registerOpbBit8) ∧
    stopOf (run 0x8341 (start 0x200#32 [])) = some (.inr .ldQuadSigned) ∧
    stopOf (run 0x9141 (start 0x200#32 [])) = some (.inr .leaStackForm) ∧
    stopOf (run 0xFAF0 (start 0x200#32 [])) = some (.inl .undefinedEncoding) ∧
    stopOf (run 0xFB55 (start 0x200#32 [])) = some (.inl .undefinedEncoding) ∧
    stopOf (run 0xD531 (start 0x200#32 [])) = some (.inl .undefinedEncoding) := by decide

theorem test_r15_refused :
    stopOf (run 0x00F1 (start 0x200#32 [])) = some (.inr .r15Source) ∧
    stopOf (run 0x002F (start 0x200#32 [])) = some (.inr .r15Destination) ∧
    stopOf (run 0xFA0F (start 0x200#32 [])) = some (.inr .r15Source) := by decide

/-! ## Witnesses: states and operands that meet the hypotheses of each obligation, at the ends of their ranges -/

/-- At the last even `pc`, the return stack empty: r4 holds an odd address, r5 a quad address, r6 the last quad, r7 the last
wyde, r8 the last byte. -/
def busy : State :=
  start 0xFFFFFFFE#32 [(0#4, 0#32), (1#4, 0x80000000#32), (2#4, 0x7FFFFFFF#32), (3#4, 0xFFFFFFFF#32), (4#4, 0x1001#32),
    (5#4, 0x1000#32), (6#4, 0xFFFFFFFC#32), (7#4, 0xFFFFFFFE#32), (8#4, 0xFFFFFFFF#32), (12#4, 0xFFFFFFC0#32),
    (13#4, 0x1000#32), (14#4, 0xFFFFFFF8#32)]

/-- `busy` with a device in the last quad, whose one known answer is 0x1FF. -/
def busyDevice : State :=
  withRegion { busy with devIn := [0x1FF#32] } { base := 0xFFFFFFFC, bytes := 4, kind := .device }

/-- `busy` with a device at the last byte only. -/
def busySplit : State :=
  withRegion { busy with devIn := [0x1FF#32] } { base := 0xFFFFFFFF, bytes := 1, kind := .device }

/-- `busy` with nothing in memory but the last quad and the byte at 0x1000. -/
def busyHole : State :=
  { busy with plat := { busy.plat with map := [{ base := 0xFFFFFFFC, bytes := 4, kind := .memory },
      { base := 0x1000, bytes := 1, kind := .memory }] } }

/-- `busy` with a full return stack. -/
def busyFull : State := busy.setRs (List.replicate 16 0x104#32)

/-- `busy` with one even entry on the return stack. -/
def busyOne : State := busy.setRs [0x104#32]

/-- `busy` in the shadow of a SKIP.cc whose test is true. -/
def busyShadow : State := busy.setSkip true .skip

theorem test_witness_DecodeOfEncode :
    Instr.wellFormed (.undefJ 3#2 2#4 15#4) = true ∧ Instr.wellFormed (.undefRegOpb 6#3 1#1 15#4 15#4) = true ∧
    Instr.wellFormed (.mov 0#4 (.reg 1#4)) = true ∧ Instr.wellFormed (.mov 15#4 (.mask 31#5)) = true := by decide

/-- A state that no run reaches: a full return stack, a delay slot at the last even address, cells listed. -/
theorem test_witness_InvKeptByStep :
    (withQuad (busyFull.setDelay (some 0xFFFFFFFE#32)) 0x1000#32 0x12003456#32).Inv ∧
    ∃ t, step (withQuad (busyFull.setDelay (some 0xFFFFFFFE#32)) 0x1000#32 0x12003456#32) = .next t := by
  refine ⟨⟨by decide, by decide, by decide, ?_, by decide, by decide, by decide, by decide, by decide⟩, _, rfl⟩
  intro t h
  cases h
  decide

theorem test_witness_StepRunsDecodedInstruction :
    (busy.fetchable ∧ busy.holdsAtPc .nop ∧ busy.sv.getLsbD 7 = false ∧ busy.skipNext = false) ∧
    ((busyShadow.withFetchWord 16 0xF0FF).fetchable ∧ (busyShadow.withFetchWord 16 0xF0FF).holdsAtPc (.spamXorn 0#3 0xFF#8) ∧
      (busyShadow.withFetchWord 16 0xF0FF).sv.getLsbD 7 = false ∧ classOf (.spamXorn 0#3 0xFF#8) = .spam) :=
  ⟨⟨by decide, rfl, rfl, rfl⟩, ⟨by decide, rfl, rfl, rfl⟩⟩

theorem test_witness_NullifiedSlotDoesNothing :
    ((busy.setSv 0x80#8).fetchable ∧ (busy.setSv 0x80#8).holdsAtPc .nop ∧ (busy.setSv 0x80#8).sv.getLsbD 7 = true) ∧
    ((busyShadow.withFetchWord 16 0xFF00).fetchable ∧ (busyShadow.withFetchWord 16 0xFF00).holdsAtPc (.trap 0#8) ∧
      (busyShadow.withFetchWord 16 0xFF00).skipNext = true ∧ classOf (.trap 0#8) ≠ .spam) :=
  ⟨⟨by decide, rfl, rfl⟩, ⟨by decide, rfl, rfl, by decide⟩⟩

theorem test_witness_FetchStops :
    (busy.setPc 0xFFFFFFFF#32).pc.getLsbD 0 = true ∧
    (busy.pc.getLsbD 0 = false ∧ busy.pc.toNat ∈ { busy with written := [0xFFFFFFFE] }.written) ∧
    (busy.pc + 1#32).toNat ∈ { busy with written := [0xFFFFFFFF] }.written ∧
    (busy.pc.toNat ∉ busy.written ∧ (busy.pc + 1#32).toNat ∉ busy.written) ∧
    (touchesNothing (busyHole.setPc 0xFFFFFFFA#32) .wyde 0xFFFFFFFA#32 ∧
      touchesNothing (busyHole.setPc 0x1000#32) .wyde 0x1000#32) ∧
    (meetsDevice busyDevice .wyde busyDevice.pc ∧ busyDevice.sv.getLsbD 7 = false ∧ busyDevice.skipNext = false) ∧
    (meetsDevice busySplit .wyde busySplit.pc ∧ busySplit.sv.getLsbD 7 = false ∧ busySplit.skipNext = false) := by
  unfold meetsDevice touchesNothing; decide

theorem test_witness_PlacedWordRuns :
    Instr.wellFormed (.trap 0xFF#8) = true ∧ busy.pc.getLsbD 0 = false ∧ busy.sv.getLsbD 7 = false ∧
    busy.skipNext = false := by decide

/-- One instruction of each class that completes. -/
theorem test_witness_SequencingByClass :
    (∃ t, exec (.inc 3#4) (busy.setDelay (some 0x200#32)) = .next t) ∧ (∃ t, exec (.skipLo 0#4 3#4) busy = .next t) ∧
    (∃ t, exec (.spamAnd 0xFF#8) busyShadow = .next t) ∧ ∃ t, exec (.bsrD 0x100#9) busy = .next t :=
  ⟨⟨_, rfl⟩, ⟨_, rfl⟩, ⟨_, rfl⟩, ⟨_, rfl⟩⟩

/-- Operand B in its four forms, at the ends of the immediates, and a register that holds a value. -/
theorem test_witness_LogicalGroupResults :
    opbIs busy (.reg 3#4) 0xFFFFFFFF#32 ∧ opbIs busy (.simm 16#5) 0xFFFFFFF0#32 ∧ opbIs busy (.pow2 31#5) 0x80000000#32 ∧
    opbIs busy (.mask 0#5) 0#32 ∧ busy.reg? 14#4 = some 0xFFFFFFF8#32 ∧ (14#4 : RegNo) ≠ 15#4 :=
  ⟨rfl, rfl, rfl, rfl, rfl, by decide⟩

theorem test_witness_XorResultAndNop : opbIs busy (.simm 31#5) 0xFFFFFFFF#32 ∧ busy.reg? 0#4 = some 0#32 := ⟨rfl, rfl⟩

theorem test_witness_PseudoOperationResults : (14#4 : RegNo) ≠ 15#4 ∧ busy.reg? 14#4 = some 0xFFFFFFF8#32 := ⟨by decide, rfl⟩

theorem test_witness_AddSubRsubResults : opbIs busy (.reg 1#4) 0x80000000#32 ∧ busy.reg? 1#4 = some 0x80000000#32 := ⟨rfl, rfl⟩

theorem test_witness_AddSncResultAndTest :
    opbIs busy (.reg 3#4) 0xFFFFFFFF#32 ∧ busy.reg? 1#4 = some 0x80000000#32 ∧ busy.unhindered := ⟨rfl, rfl, by decide⟩

/-- A last set bit of the vector is consumed by the slot itself. -/
theorem test_witness_SubSnbRsubSnbResultAndTest :
    opbIs (busy.setSv 0x80#8) (.mask 31#5) 0x7FFFFFFF#32 ∧ (busy.setSv 0x80#8).reg? 2#4 = some 0x7FFFFFFF#32 ∧
    (busy.setSv 0x80#8).unhindered := ⟨rfl, rfl, by decide⟩

theorem test_witness_ShiftAndRotateResults : busy.plat.fullShifter = true ∧ busy.reg? 1#4 = some 0x80000000#32 := ⟨rfl, rfl⟩

theorem test_witness_Y1aShifterCounts :
    (onY1a busy).plat.fullShifter = false ∧ (onY1a busy).reg? 1#4 = some 0x80000000#32 ∧
    (0#5 ≠ 1#5 ∧ 0#5 ≠ 2#5) ∧ (31#5 ≠ 1#5 ∧ 31#5 ≠ 2#5) := ⟨rfl, rfl, by decide, by decide⟩

theorem test_witness_FlipPermutesBits : (onY1a busy).reg? 2#4 = some 0x7FFFFFFF#32 := rfl

theorem test_witness_ExtendResults : busy.reg? 1#4 = some 0x80000000#32 ∧ (0#4 : RegNo) ≠ 15#4 := ⟨rfl, by decide⟩

theorem test_witness_R15Refused :
    namesR15 (.mov 0#4 (.reg 15#4)) = true ∧ namesR15 (.stb 15#4 .plain 0#4) = true ∧ namesR15 (.rbsrD 15#4) = true ∧
    namesR15 (.skipBc 15#4 0#5) = true ∧ busyFull.unhindered ∧ busyFull.plat.fullShifter = true := by decide

theorem test_witness_EffectiveAddresses :
    busy.pc = 0xFFFFFFFE#32 ∧ busy.reg? 4#4 = some 0x1001#32 ∧ busy.reg? 14#4 = some 0xFFFFFFF8#32 ∧
    busy.reg? 12#4 = some 0xFFFFFFC0#32 ∧ busy.reg? 13#4 = some 0x1000#32 := ⟨rfl, rfl, rfl, rfl, rfl⟩

/-- The last quad, wyde and byte of the space, in memory, on a device and in both; both stack bases. -/
theorem test_witness_LoadsIntoRegister :
    (accessible busy .quad (effAddr busy .plain 6#4) ∧ accessible busyDevice .quad (effAddr busyDevice .plain 6#4) ∧
      accessible busySplit .quad (effAddr busySplit .plain 6#4)) ∧
    (accessible busy .quad (stackAddr busy .fp 15#4) ∧ accessible busy .quad (stackAddr busy .sp 0#4)) ∧
    (accessible busy .wyde (effAddr busy .plain 7#4) ∧ accessible busyDevice .wyde (effAddr busyDevice .plain 7#4)) ∧
    (accessible busy .byte (effAddr busy .plain 8#4) ∧ accessible busyDevice .byte (effAddr busyDevice .plain 8#4)) ∧
    (14#4 : RegNo) ≠ 15#4 := by unfold accessible touchesNothing; decide

theorem test_witness_StoresOfRegister :
    (busy.reg? 14#4 = some 0xFFFFFFF8#32 ∧ busyDevice.reg? 0#4 = some 0#32) ∧
    (accessible busy .quad (effAddr busy .imm 5#4) ∧ accessible busyDevice .quad (effAddr busyDevice .plain 6#4) ∧
      busySplit.reg? 0#4 = some 0#32 ∧ accessible busySplit .quad (effAddr busySplit .plain 6#4)) ∧
    (accessible busy .quad (stackAddr busy .fp 15#4) ∧ accessible busy .quad (stackAddr busy .sp 15#4)) ∧
    (accessible busy .wyde (effAddr busy .plain 15#4) ∧ accessible busyDevice .wyde (effAddr busyDevice .plain 7#4)) ∧
    (accessible busy .byte (effAddr busy .plain 4#4) ∧ accessible busyDevice .byte (effAddr busyDevice .plain 8#4)) := by
  unfold accessible touchesNothing; decide

theorem test_witness_BigEndianBytes :
    aligned .quad 0xFFFFFFFC#32 = true ∧ aligned .quad 0#32 = true ∧ aligned .wyde 0xFFFFFFFE#32 = true := by decide

theorem test_witness_AccessStops :
    (namesR15 (.ldq 0#4 .plain 8#4) = false ∧ loadOf busy (.ldq 0#4 .plain 8#4) = some (.quad, 0xFFFFFFFF#32) ∧
      aligned .quad 0xFFFFFFFF#32 = false) ∧
    (loadOf busy (.lduw 0#4 .plain 4#4) = some (.wyde, 0x1001#32) ∧ aligned .wyde 0x1001#32 = false) ∧
    (loadOf busyHole (.ldqRs (.normal .plain 5#4)) = some (.quad, 0x1000#32) ∧ busyHole.plat.rsManualAccess = true ∧
      aligned .quad 0x1000#32 = true ∧ touchesNothing busyHole .quad 0x1000#32) ∧
    (storeOf busy (.stqStack 0#4 .fp 15#4) = some (.quad, 0xFFFFFFFC#32) ∧
      storeOf busy (.stw 0#4 .plain 8#4) = some (.wyde, 0xFFFFFFFF#32) ∧ aligned .wyde 0xFFFFFFFF#32 = false) ∧
    (storeOf (busyOne.setPc 0x102#32) (.stqRs (.normal .plain 15#4)) = some (.quad, 0x102#32) ∧
      popsStack (.stqRs (.normal .plain 15#4)) = true ∧ busyOne.rs ≠ [] ∧ aligned .quad 0x102#32 = false) ∧
    (storeOf busyHole (.stb 0#4 .plain 4#4) = some (.byte, 0x1001#32) ∧ aligned .byte 0x1001#32 = true ∧
      touchesNothing busyHole .byte 0x1001#32) := by
  unfold touchesNothing; decide

/-- One place left on the return stack. -/
theorem test_witness_LoadPushesReturnStack :
    busyOne.plat.rsManualAccess = true ∧ accessible busyOne .quad (quadAddr busyOne (.stack .fp 15#4)) ∧
    (busyOne.setRs (List.replicate 15 0#32)).rs.length < busyOne.plat.rsDepth := by unfold accessible touchesNothing; decide

theorem test_witness_StorePopsReturnStack :
    busyOne.plat.rsManualAccess = true ∧ accessible busyOne .quad (quadAddr busyOne (.normal .plain 6#4)) ∧
    busyOne.rs = 0x104#32 :: [] := by unfold accessible touchesNothing; decide

theorem test_witness_ReturnStackStops :
    { busy with plat := { busy.plat with rsManualAccess := false } }.plat.rsManualAccess = false ∧
    (busy.plat.rsManualAccess = true ∧ busy.rs = []) ∧
    (accessible busyFull .quad (quadAddr busyFull (.stack .sp 15#4)) ∧ busyFull.plat.rsDepth ≤ busyFull.rs.length) := by
  unfold accessible touchesNothing; decide

theorem test_witness_StoreThenLoad :
    busy.reg? 3#4 = some 0xFFFFFFFF#32 ∧ (0#4 : RegNo) ≠ 15#4 ∧
    (inMemory busy .quad (effAddr busy .plain 6#4) ∧ inMemory busy .wyde (effAddr busy .plain 6#4) ∧
      inMemory busy .byte (effAddr busy .plain 6#4)) ∧
    (∃ t, exec (.stq 3#4 .plain 6#4) busy = .next t ∧ effAddr t .plain 6#4 = effAddr busy .plain 6#4) ∧
    (∃ t, exec (.stw 3#4 .plain 6#4) busy = .next t ∧ effAddr t .plain 6#4 = effAddr busy .plain 6#4) ∧
    ∃ t, exec (.stb 3#4 .plain 6#4) busy = .next t ∧ effAddr t .plain 6#4 = effAddr busy .plain 6#4 :=
  ⟨rfl, by decide, by unfold inMemory; decide, ⟨_, rfl, rfl⟩, ⟨_, rfl, rfl⟩, ⟨_, rfl, rfl⟩⟩

/-- From a full return stack, in the frame at sp. -/
theorem test_witness_SpillAndRestore :
    (∃ t, exec (.stqRs (.stack .sp 0#4)) busyFull = .next t ∧
      quadAddr t (.normal .plain 5#4) = quadAddr busyFull (.stack .sp 0#4)) ∧
    inMemory busyFull .quad (quadAddr busyFull (.stack .sp 0#4)) ∧
    busyFull.rs.length ≤ busyFull.plat.rsDepth := ⟨⟨_, rfl, rfl⟩, by unfold inMemory; decide, by decide⟩

theorem test_witness_LeaWritesAddress : (0#4 : RegNo) ≠ 15#4 := by decide

/-- The last quad LDI can name wraps to the bottom of the space; a device answers it too. -/
theorem test_witness_LdiReadsQuadIntoImm :
    ¬ touchesNothing busy .quad (ldiAddr busy 4095#12) ∧ ¬ touchesNothing busyDevice .quad (ldiAddr busyDevice 0#12) ∧
    ¬ touchesNothing busySplit .quad (ldiAddr busySplit 0#12) := by unfold touchesNothing; decide

theorem test_witness_SkipRegisterPairTests :
    busy.reg? 1#4 = some 0x80000000#32 ∧ busy.reg? 2#4 = some 0x7FFFFFFF#32 ∧ busy.unhindered := by decide

theorem test_witness_SkipUnaryTests : busy.reg? 1#4 = some 0x80000000#32 ∧ (busy.setSv 0x80#8).unhindered := by decide

theorem test_witness_SkipWydeAndByteTests : busy.reg? 2#4 = some 0x7FFFFFFF#32 ∧ busy.unhindered := by decide

theorem test_witness_SkipAlwaysNeverFlags :
    busy.unhindered ∧ { busy with flagIn := [0x8000#16] }.flagIn = 0x8000#16 :: [] := by decide

theorem test_witness_SpamAndLoadsVector : busyShadow.unhindered ∧ busyShadow.skipKind = .skip ∧ busyShadow.skipNext = true := by decide

theorem test_witness_SpamXornLoadsVector :
    (busy.setSkip false .skip).unhindered ∧ (busy.setSkip false .skip).skipKind = .skip := by decide

theorem test_witness_ShortBranchTargets : busy.pc.getLsbD 0 = false ∧ (busy.setSv 0x80#8).unhindered := by decide

theorem test_witness_LongBranchTargets :
    busy.pc.getLsbD 0 = false ∧ busy.unhindered ∧ busy.reg? 14#4 = some 0xFFFFFFF8#32 := by decide

theorem test_witness_RegisterJumpTargets :
    busy.unhindered ∧ busy.reg? 5#4 = some 0x1000#32 ∧ (0x1000#32).getLsbD 0 = false ∧
    (busy.pc + 0x1000#32).getLsbD 0 = false := by decide

/-- One place left on the return stack. -/
theorem test_witness_CallsPushAndGo :
    (busy.setRs (List.replicate 15 0#32)).unhindered ∧
    (busy.setRs (List.replicate 15 0#32)).rs.length < (busy.setRs (List.replicate 15 0#32)).plat.rsDepth ∧
    busy.pc.getLsbD 0 = false ∧ busy.reg? 14#4 = some 0xFFFFFFF8#32 ∧ busy.reg? 5#4 = some 0x1000#32 ∧
    (0x1000#32).getLsbD 0 = false ∧ (busy.pc + 0x1000#32).getLsbD 0 = false := by decide

theorem test_witness_ReturnsPopTarget :
    busyOne.unhindered ∧ busyOne.rs = 0x104#32 :: [] ∧ (0x104#32).getLsbD 0 = false := by decide

theorem test_witness_TransferStops :
    busy.unhindered ∧ (busy.reg? 4#4 = some 0x1001#32 ∧ (0x1001#32).getLsbD 0 = true ∧
      (busy.pc + 0x1001#32).getLsbD 0 = true ∧ busy.rs.length < busy.plat.rsDepth) ∧
    (busyFull.unhindered ∧ busyFull.reg? 5#4 = some 0x1000#32 ∧ busyFull.plat.rsDepth ≤ busyFull.rs.length) ∧
    busy.rs = [] ∧ (busy.setRs [0x105#32]).rs = 0x105#32 :: [] ∧ (0x105#32).getLsbD 0 = true := by decide

theorem test_witness_PlacementRefused :
    (classOf .rts = .transfer ∧ (busy.setDelay (some 0#32)).delayTarget ≠ none) ∧
    (classOf (.bra 0#9) = .transfer ∧ busy.delayTarget = none ∧ (busy.setSv 0x01#8).sv <<< 1 ≠ 0#8) ∧
    (classOf (.addSnc 1#4 (.simm 1#5)) = .skip ∧ (busy.setSv 0x40#8).sv <<< 1 ≠ 0#8) ∧
    (classOf (.spamAnd 0#8) = .spam ∧ busy.unhindered ∧ (busy.setSkip true .cskip).skipKind ≠ .skip) := by decide

theorem test_witness_DestinationFrame :
    (∃ t, exec (.ldi 0#12) busy = .next t) ∧ destOf (.ldi 0#12) ≠ some 13#4 := ⟨⟨_, rfl⟩, by decide⟩

theorem test_witness_SystemStateFrame : (∃ t, exec (.stqRs (.normal .plain 6#4)) busyOne = .next t) ∧
    Instr.stqRs (.normal .plain 6#4) ≠ .di ∧ Instr.stqRs (.normal .plain 6#4) ≠ .ei := ⟨⟨_, rfl⟩, by decide, by decide⟩

theorem test_witness_OnlyStoresWriteMemory :
    ((∃ t, exec (.ldqRs (.normal .plain 6#4)) busy = .next t) ∧ storeOf busy (.ldqRs (.normal .plain 6#4)) = none) ∧
    ((∃ t, exec (.stw 1#4 .plain 7#4) busy = .next t) ∧ storeOf busy (.stw 1#4 .plain 7#4) = some (.wyde, 0xFFFFFFFE#32)) :=
  ⟨⟨⟨_, rfl⟩, by decide⟩, ⟨⟨_, rfl⟩, by decide⟩⟩

theorem test_witness_ReturnStackMoves :
    ((∃ t, exec (.ldqStack 15#4 .fp 15#4) busy = .next t) ∧ pushesStack (.ldqStack 15#4 .fp 15#4) = true) ∧
    ((∃ t, exec .rtsD busyOne = .next t) ∧ popsStack .rtsD = true) ∧
    ((∃ t, exec (.bra 0#9) busyOne = .next t) ∧ pushesStack (.bra 0#9) = false ∧ popsStack (.bra 0#9) = false) :=
  ⟨⟨⟨_, rfl⟩, by decide⟩, ⟨⟨_, rfl⟩, by decide⟩, ⟨⟨_, rfl⟩, by decide, by decide⟩⟩

theorem test_witness_ExternalAccesses :
    (∃ t, exec (.ldsb 1#4 .plain 8#4) busyDevice = .next t) ∧ accessesData (.jmp 5#4) = false ∧
    ∃ t, exec (.jmp 5#4) busyDevice = .next t := ⟨⟨_, rfl⟩, by decide, ⟨_, rfl⟩⟩

/-- An executed and a nullified delay slot. -/
theorem test_witness_DelaySlotThenTarget :
    ((busy.setDelay (some 0xFFFFFFFE#32)).delayTarget = some 0xFFFFFFFE#32 ∧
      ∃ t, step (busy.setDelay (some 0xFFFFFFFE#32)) = .next t) ∧
    ∃ t, step ((busy.setDelay (some 0#32)).setSv 0x80#8) = .next t := ⟨⟨rfl, _, rfl⟩, _, rfl⟩

theorem test_witness_CallThenReturn :
    classOf (.bsrD 0#9) = .transfer ∧ pushesStack (.bsrD 0#9) = true ∧ busy.pc.getLsbD 0 = false ∧
    ∃ t u, exec (.bsrD 0#9) busy = .next t ∧ State.rs u = t.rs ∧ u.unhindered :=
  ⟨rfl, rfl, rfl, _, busy.setRs [0x2#32], rfl, rfl, by decide⟩

theorem test_witness_BranchToSelfEndsRun :
    (busy.withFetchWord 16 0xE200).fetchable ∧ (busy.withFetchWord 16 0xE200).wordAtPc = 0xE200#16 ∧
    busy.skipNext = false ∧ busy.skipKind = .none ∧ busy.sv = 0#8 ∧ busy.delayTarget = none := by decide

end Sys2Proof.Tests
end

section
/-! The bytes of an operand in memory (R64): what each byte holds after the operand is written, and what an access to part
of it reads. -/

namespace Sys2Proof.Machine

/-- After an aligned operand is written, each of its addresses holds its byte of the operand (R66). -/
theorem Memory.read_writeCells_operandCells (m : Memory) {n : Size} {a : Word} (v : Word) (h : aligned n a = true) {i : Nat}
    (hi : i < n.bytes) : (m.writeCells (operandCells n a v)).read (a.toNat + i) = operandByte n v i := by
  refine Memory.read_writeCells_of_mem _ _ ⟨_, (mem_operandCells h).mpr ⟨i, hi, rfl⟩, rfl⟩ fun c hc he => ?_
  obtain ⟨j, -, rfl⟩ := (mem_operandCells h).mp hc
  obtain rfl : j = i := by simpa using he
  rfl

/-- An aligned access within an operand just written, `j` bytes from its start, reads the operand's bytes from number `j`
on. -/
theorem Memory.readOperand_within_writeCells (m : Memory) {n k : Size} {a b : Word} (v : Word) {j : Nat}
    (hn : aligned n a = true) (hk : aligned k b = true) (hb : b.toNat = a.toNat + j) (hj : j + k.bytes ≤ n.bytes) :
    (m.writeCells (operandCells n a v)).readOperand k b = operandOf k fun i => operandByte n v (j + i) := by
  refine operandOf_congr k fun i hi => ?_
  rw [Memory.byteAt_aligned _ hk hi, hb, Nat.add_assoc,
    Memory.read_writeCells_operandCells m v hn (Nat.lt_of_lt_of_le (Nat.add_lt_add_left hi j) hj)]

theorem aligned_byte (a : Word) : aligned .byte a = true := by simp [aligned, Size.bytes, Nat.mod_one]

/-- The second half of an aligned quad is an aligned wyde. -/
theorem aligned_wyde_add_two {a : Word} (h : aligned .quad a = true) : aligned .wyde (a + 2#32) = true := by
  obtain ⟨-, h2, -⟩ := aligned_quad h
  simp only [aligned, Size.bytes, beq_iff_eq] at h ⊢
  omega

/-- The last two bytes of a quad, as a wyde, are its low half. -/
theorem operandOf_wyde_quad_low (v : Word) :
    (operandOf .wyde fun i => operandByte .quad v (2 + i)) = (v.extractLsb' 0 16).setWidth 32 :=
  congrArg (BitVec.setWidth 32) (BitVec.extractLsb'_append_extractLsb'_eq_extractLsb' rfl)

theorem Size.trunc_wyde (v : Word) : Size.trunc .wyde v = (v.extractLsb' 0 16).setWidth 32 :=
  congrArg (BitVec.setWidth 32) (BitVec.setWidth_eq_extractLsb' (by decide))

/-- Settles O27: the bytes one by one, the whole operand read back, and a quad's first byte and second half as accesses
within it. -/
theorem bigEndianBytes : Obligations.BigEndianBytes := by
  intro m a v
  refine ⟨fun h => ?quad, fun h => ?wyde⟩
  case quad =>
    have byte {i : Nat} (hi : i < 4) := Memory.read_writeCells_operandCells m v h hi
    obtain ⟨-, h2, -⟩ := aligned_quad h
    exact ⟨byte (i := 0) (by decide), byte (i := 1) (by decide), byte (i := 2) (by decide), byte (i := 3) (by decide),
      Memory.readOperand_writeCells m .quad a v,
      Memory.readOperand_within_writeCells m v (j := 0) h (aligned_byte a) rfl (by decide),
      (Memory.readOperand_within_writeCells m v h (aligned_wyde_add_two h) h2 (by decide)).trans
        (operandOf_wyde_quad_low v)⟩
  case wyde =>
    have byte {i : Nat} (hi : i < 2) := Memory.read_writeCells_operandCells m v h hi
    exact ⟨byte (i := 0) (by decide), byte (i := 1) (by decide),
      (Memory.readOperand_writeCells m .wyde a v).trans (Size.trunc_wyde v)⟩

end Sys2Proof.Machine
end

section
/-! The words of formats L and A (R92, R93, R104, R109) and the shapes that write one register: when an instruction whose
meaning is `moveSlot` or `aluSlot` completes with a given value in its destination and nothing else changed. -/

namespace Sys2Proof

open Machine

/-- The encoder's operand B is OPB_CTL followed by OPB; the register form's bit 8 is the top bit of OPB (R104). -/
theorem encodeOpb_eq_opbField (b : Opb) : encodeOpb b = (opbField b).1 ++ (opbField b).2 := by
  cases b with
  | reg rb => exact BitVec.append_assoc (x₁ := 0b00#2) (x₂ := 0#1) (x₃ := rb)
  | simm _ | pow2 _ | mask _ => rfl

theorem packAlu_eq_wordOfAlu (op : BitVec 5) (b : Opb) (ra : RegNo) : packAlu op b ra = wordOfAlu op b ra := by
  rw [packAlu, wordOfAlu, encodeOpb_eq_opbField]
  exact congrArg (op ++ ·) BitVec.append_assoc

/-- The opcode and operand B of a word of formats L and A are its twelve high bits. -/
theorem packAlu_eq_append (op : BitVec 5) (b : Opb) (ra : RegNo) : packAlu op b ra = (op ++ encodeOpb b : BitVec 12) ++ ra :=
  BitVec.append_assoc.symm

end Sys2Proof

namespace Sys2Proof.Machine

/-- A register that holds a word is not r15 (R24). -/
theorem State.ne_fifteen_of_reg? {s : State} {r : RegNo} {v : Word} (h : s.reg? r = some v) : r ≠ 15#4 := by
  rintro rfl
  simp at h

/-! ## What `afterWrite` holds and leaves unchanged -/

theorem State.afterWrite_reg?_same (s : State) {ra : RegNo} (h : ra ≠ 15#4) (v : Word) :
    (s.afterWrite ra v).reg? ra = some v := by
  rw [State.afterWrite, State.setPc_reg?, State.reg?_setReg_same _ _ _ h]

theorem regsExcept_afterWrite (s : State) (ra : RegNo) (v : Word) : regsExcept s (s.afterWrite ra v) ra := fun r hr => by
  rw [State.afterWrite, State.setPc_reg?, State.reg?_setReg_ne _ _ hr, State.enter_reg?]

theorem restSame_afterWrite (s : State) (ra : RegNo) (v : Word) : restSame s (s.afterWrite ra v) := by
  simp [restSame, memSame, stackSame, systemSame, flagsSame, devicesSame, State.afterWrite]

/-- An instruction that goes on to `afterWrite` has written its register and nothing else. -/
theorem writesReg_of_afterWrite {i : Instr} {s : State} {ra : RegNo} {v : Word} (hra : ra ≠ 15#4)
    (h : exec i s = .next (s.afterWrite ra v)) : writesReg i s ra v :=
  ⟨_, h, State.afterWrite_reg?_same s hra v, regsExcept_afterWrite s ra v, restSame_afterWrite s ra v⟩

/-! ## The shapes of formats L and A -/

theorem writesReg_of_moveSlot {i : Instr} {s : State} {ra : RegNo} {b : Opb} {f : Word → Word} {y v : Word}
    (hi : exec i s = moveSlot s ra b f) (hb : opbIs s b y) (hra : ra ≠ 15#4) (hv : f y = v) : writesReg i s ra v :=
  writesReg_of_afterWrite hra (hi.trans (moveSlot_eq_next.mpr ⟨hra, y, hb, by rw [hv]⟩))

theorem writesReg_of_aluSlot {i : Instr} {s : State} {ra : RegNo} {b : Opb} {f : Word → Word → Word} {x y v : Word}
    (hi : exec i s = aluSlot s ra b f) (hx : s.reg? ra = some x) (hb : opbIs s b y) (hv : f x y = v) :
    writesReg i s ra v :=
  have hra := State.ne_fifteen_of_reg? hx
  writesReg_of_afterWrite hra (hi.trans (aluSlot_eq_next.mpr ⟨hra, x, y, hx, hb, by rw [hv]⟩))

end Sys2Proof.Machine
end

section
/-! The logical and move group (40_logical_move.md R132 to R142), and the pseudo-instructions of both groups (R140, R141,
R158 to R160), each of which is a general instruction with a 5-bit signed immediate. -/

namespace Sys2Proof.Machine

/-- Settles O12: each word is packed as `wordOfAlu` says, and each meaning is one `moveSlot` or `aluSlot`; `x ^ ~y` is
`~(x ^ y)`, as R139 remarks. -/
theorem logicalGroupResults : Obligations.LogicalGroupResults := by
  intro s ra b x y
  have word (op : BitVec 5) := packAlu_eq_wordOfAlu op b ra
  refine ⟨⟨word _, word _, word _, word _, word _, word _, word _⟩, fun hb hra => ?moves, fun hb hx => ?alu⟩
  case moves => exact ⟨writesReg_of_moveSlot rfl hb hra rfl, writesReg_of_moveSlot rfl hb hra rfl⟩
  case alu =>
    exact ⟨writesReg_of_aluSlot rfl hx hb rfl, writesReg_of_aluSlot rfl hx hb rfl, writesReg_of_aluSlot rfl hx hb rfl,
      writesReg_of_aluSlot rfl hx hb rfl, writesReg_of_aluSlot rfl hx hb BitVec.not_xor_right.symm⟩

/-- The immediate -1 complements (R141). -/
theorem xor_simm_minus_one (x : Word) : x ^^^ (31#5).signExtend 32 = ~~~x :=
  BitVec.xor_allOnes

/-- Settles O14: each word is that of the instruction its rule names, whose twelve high bits the rule prints; the effect is
that instruction's with operand B the sign-extended immediate. -/
theorem pseudoOperationResults : Obligations.PseudoOperationResults := by
  intro s ra x
  have word (op v : BitVec 5) := packAlu_eq_wordOfAlu op (.simm v) ra
  have bits (op v : BitVec 5) := packAlu_eq_append op (.simm v) ra
  have imm (v : BitVec 5) : opbIs s (.simm v) (v.signExtend 32) := rfl
  refine ⟨?words, fun hra => ?clr, fun hx => ?alu⟩
  case words =>
    exact ⟨bits 0#5 0#5, word 0#5 0#5, bits 6#5 31#5, word 6#5 31#5, bits 8#5 1#5, word 8#5 1#5, bits 10#5 1#5,
      word 10#5 1#5, bits 12#5 0#5, word 12#5 0#5⟩
  case clr => exact writesReg_of_moveSlot rfl (imm 0#5) hra rfl
  case alu =>
    exact ⟨writesReg_of_aluSlot rfl hx (imm 31#5) (xor_simm_minus_one x), writesReg_of_aluSlot rfl hx (imm 1#5) rfl,
      writesReg_of_aluSlot rfl hx (imm 1#5) rfl, writesReg_of_aluSlot rfl hx (imm 0#5) rfl⟩

end Sys2Proof.Machine
end

section
/-! The shapes of the arithmetic group that are not format L and A's own: the shifts (R161, R163), EXT (R174), and the skip
forms, which write a register and hand a test to the next slot (R151, R153, R155). -/

namespace Sys2Proof.Machine

/-! ## Shifts, FLIP and EXT -/

theorem writesReg_of_unarySlot {i : Instr} {s : State} {ra : RegNo} {f : Word → Word} {x v : Word}
    (hi : exec i s = unarySlot s ra f) (hx : s.reg? ra = some x) (hv : f x = v) : writesReg i s ra v :=
  have hra := State.ne_fifteen_of_reg? hx
  writesReg_of_afterWrite hra (hi.trans (unarySlot_eq_next.mpr ⟨hra, x, hx, by rw [hv]⟩))

/-- A shift whose count the shifter has writes the shifted value (R163). -/
theorem writesReg_of_shiftSlot {i : Instr} {s : State} {ra : RegNo} {n : BitVec 5} {y1aHas : BitVec 5 → Bool}
    {f : Word → BitVec 5 → Word} {x v : Word} (hi : exec i s = shiftSlot s ra n y1aHas f)
    (hn : (s.plat.fullShifter || y1aHas n) = true) (hx : s.reg? ra = some x) (hv : f x n = v) : writesReg i s ra v :=
  have hra := State.ne_fifteen_of_reg? hx
  writesReg_of_afterWrite hra (hi.trans (shiftSlot_eq_next.mpr ⟨hn, hra, x, hx, by rw [hv]⟩))

theorem writesReg_of_extSlot {i : Instr} {s : State} {ra rb : RegNo} {f : Word → Word} {x v : Word}
    (hi : exec i s = extSlot s ra rb f) (hx : s.reg? rb = some x) (hra : ra ≠ 15#4) (hv : f x = v) :
    writesReg i s ra v :=
  writesReg_of_afterWrite hra (hi.trans (extSlot_eq_next.mpr ⟨hra, x, hx, by rw [hv]⟩))

/-! ## The skip forms -/

/-- The state after an executed instruction that writes one register and hands a test of kind CSKIP to the next slot: where
`cskipSlot` goes on (`cskipSlot_eq_next`). -/
def State.afterWriteTest (s : State) (ra : RegNo) (v : Word) (test : Bool) : State :=
  ((s.enter.setReg ra v).setSkip test .cskip).setPc s.nextPc

theorem State.afterWriteTest_reg?_same (s : State) {ra : RegNo} (h : ra ≠ 15#4) (v : Word) (test : Bool) :
    (s.afterWriteTest ra v test).reg? ra = some v := by
  rw [State.afterWriteTest, State.setPc_reg?, State.setSkip_reg?, State.reg?_setReg_same _ _ _ h]

theorem regsExcept_afterWriteTest (s : State) (ra : RegNo) (v : Word) (test : Bool) :
    regsExcept s (s.afterWriteTest ra v test) ra := fun r hr => by
  rw [State.afterWriteTest, State.setPc_reg?, State.setSkip_reg?, State.reg?_setReg_ne _ _ hr, State.enter_reg?]

theorem restSame_afterWriteTest (s : State) (ra : RegNo) (v : Word) (test : Bool) :
    restSame s (s.afterWriteTest ra v test) := by
  simp [restSame, memSame, stackSame, systemSame, flagsSame, devicesSame, State.afterWriteTest]

/-- Where R224 b and d let it execute, a skip form writes its result and tests that no carry or borrow occurred. -/
theorem writesRegAndTests_of_cskipSlot {i : Instr} {s : State} {ra : RegNo} {b : Opb} {f : Word → Word → Word}
    {carry : Word → Word → Bool} {x y v : Word} {test : Bool} (hi : exec i s = cskipSlot s ra b f carry)
    (hs : s.unhindered) (hx : s.reg? ra = some x) (hb : opbIs s b y) (hv : f x y = v) (ht : (!carry x y) = test) :
    writesRegAndTests i s ra v test := by
  have hra := State.ne_fifteen_of_reg? hx
  have hnext : exec i s = .next (s.afterWriteTest ra v test) :=
    hi.trans (cskipSlot_eq_next.mpr ⟨hs, hra, x, y, hx, hb, by rw [hv, ht, State.afterWriteTest]⟩)
  exact ⟨_, hnext, State.afterWriteTest_reg?_same s hra v test, rfl, rfl, regsExcept_afterWriteTest s ra v test,
    restSame_afterWriteTest s ra v test⟩

end Sys2Proof.Machine
end

section
/-! ADD, SUB and RSUB (41_arithmetic.md R150 to R154), the shifts and rotates (R164 to R168) and EXT (R170 to R173). -/

namespace Sys2Proof.Machine

/-- Settles O15: each word is packed as `wordOfAlu` says, and each meaning is one `aluSlot` over the modular operation. -/
theorem addSubRsubResults : Obligations.AddSubRsubResults := by
  intro s ra b x y
  have word (op : BitVec 5) := packAlu_eq_wordOfAlu op b ra
  refine ⟨⟨word _, word _, word _⟩, fun hb hx => ?_⟩
  exact ⟨writesReg_of_aluSlot rfl hx hb rfl, writesReg_of_aluSlot rfl hx hb rfl, writesReg_of_aluSlot rfl hx hb rfl⟩

/-- The low 32 bits of the 33-bit sum are the modular sum (R151). -/
theorem setWidth_sum33 (x y : Word) : (x.setWidth 33 + y.setWidth 33).setWidth 32 = x + y := by
  rw [BitVec.setWidth_add _ _ (by decide), BitVec.setWidth_setWidth_of_le _ (by decide),
    BitVec.setWidth_setWidth_of_le _ (by decide), BitVec.setWidth_eq, BitVec.setWidth_eq]

/-- Settles O16: the modular sum is the 33-bit sum's low part, and the carry that `cskipSlot` tests is its bit 32. -/
theorem addSncResultAndTest : Obligations.AddSncResultAndTest := by
  intro s ra b x y
  refine ⟨packAlu_eq_wordOfAlu _ b ra, fun hb hx hs => ?_⟩
  have test : (!carryOut x y) = ((x.setWidth 33 + y.setWidth 33).getLsbD 32 == false) := (beq_false _).symm
  exact writesRegAndTests_of_cskipSlot rfl hs hx hb (setWidth_sum33 x y).symm test

/-- The two shifts of R167 make a rotation, for the count 0 as well. -/
theorem shiftRor_eq_rotateRight (x : Word) (n : BitVec 5) : shiftRor x n = x.rotateRight n.toNat :=
  (BitVec.rotateRight_eq_rotateRightAux_of_lt n.isLt).symm

/-- The two shifts of R168 make a rotation, for the count 0 as well. -/
theorem shiftRol_eq_rotateLeft (x : Word) (n : BitVec 5) : shiftRol x n = x.rotateLeft n.toNat :=
  (BitVec.rotateLeft_eq_rotateLeftAux_of_lt n.isLt).symm

/-- Settles O19: each meaning is one `shiftSlot`, which the full shifter lets complete for every count; the rotates are
rotations by `shiftRor_eq_rotateRight` and `shiftRol_eq_rotateLeft`. -/
theorem shiftAndRotateResults : Obligations.ShiftAndRotateResults := by
  intro s ra n x
  refine ⟨⟨rfl, rfl, rfl, rfl, rfl, rfl⟩, fun hfull hx => ?_⟩
  have has (y1aHas : BitVec 5 → Bool) (k : BitVec 5) : (s.plat.fullShifter || y1aHas k) = true := by
    rw [hfull, Bool.true_or]
  exact ⟨writesReg_of_shiftSlot rfl (has _ n) hx rfl, writesReg_of_shiftSlot rfl (has _ n) hx rfl,
    writesReg_of_shiftSlot rfl (has _ n) hx rfl, writesReg_of_shiftSlot rfl (has _ n) hx (shiftRor_eq_rotateRight x n),
    writesReg_of_shiftSlot rfl (has _ n) hx (shiftRol_eq_rotateLeft x n),
    writesReg_of_shiftSlot rfl (has _ 1#5) hx (shiftRol_eq_rotateLeft x 1#5)⟩

/-- Settles O22: each meaning is one `extSlot`; a truncation is the extraction of the low bits. -/
theorem extendResults : Obligations.ExtendResults := by
  intro s ra rb x
  refine ⟨⟨rfl, rfl, rfl, rfl⟩, fun hx hra => ?_⟩
  have wyde : x.setWidth 16 = x.extractLsb' 0 16 := BitVec.setWidth_eq_extractLsb' (by decide)
  have byte : x.setWidth 8 = x.extractLsb' 0 8 := BitVec.setWidth_eq_extractLsb' (by decide)
  rw [← wyde, ← byte]
  exact ⟨writesReg_of_extSlot rfl hx hra rfl, writesReg_of_extSlot rfl hx hra rfl,
    writesReg_of_extSlot rfl hx hra rfl, writesReg_of_extSlot rfl hx hra rfl⟩

end Sys2Proof.Machine
end

section
/-! FLIP (41_arithmetic.md R169): each enabled stage exchanges the bits whose numbers differ in one binary digit, so that
together the stages move bit `i XOR N` to bit `i`. -/

namespace Sys2Proof.Machine

/-- `m` selects the lower field of each pair of fields `p` wide: shifted up by `p` it selects the upper ones, which are the
rest, and `i XOR p` is the bit that is `p` above a selected bit `i`, or `p` below any other. -/
abbrev selectsLowerFields (m : Word) (p : BitVec 5) : Prop :=
  m <<< p.toNat = ~~~m ∧ ∀ i : BitVec 5,
    if m.getLsbD i.toNat then (i ^^^ p).toNat = i.toNat + p.toNat else i.toNat = (i ^^^ p).toNat + p.toNat

/-- An enabled stage takes the lower fields from the value shifted down and the upper ones from the value shifted up. -/
theorem flipStage_enabled {m : Word} {p : BitVec 5} (h : selectsLowerFields m p) (v : Word) :
    flipStage true m p.toNat v = (v <<< p.toNat &&& ~~~m) ||| (v >>> p.toNat &&& m) := by
  rw [flipStage, if_pos rfl, BitVec.shiftLeft_and_distrib, h.1]

/-- One stage moves bit `i XOR p` to bit `i` where it is enabled, and moves nothing where it is not. -/
theorem flipStage_getLsbD {m : Word} {p : BitVec 5} (h : selectsLowerFields m p) (enabled : Bool) (v : Word)
    (i : BitVec 5) :
    (flipStage enabled m p.toNat v).getLsbD i.toNat = v.getLsbD (i ^^^ if enabled then p else 0#5).toNat := by
  cases enabled with
  | false => simp [flipStage]
  | true =>
    have hi : i.toNat < 32 := i.isLt
    have partner := h.2 i
    rw [flipStage_enabled h, if_pos rfl, BitVec.getLsbD_or, BitVec.getLsbD_and, BitVec.getLsbD_and, BitVec.getLsbD_not,
      BitVec.getLsbD_shiftLeft, BitVec.getLsbD_ushiftRight]
    cases hm : m.getLsbD i.toNat with
    | true =>
      rw [if_pos hm, Nat.add_comm] at partner
      simp [partner, -BitVec.toNat_xor]
    | false =>
      rw [if_neg (by simp [hm])] at partner
      have sub : i.toNat - p.toNat = (i ^^^ p).toNat := by omega
      have le : p.toNat ≤ i.toNat := by omega
      simp [sub, le, hi, -BitVec.toNat_xor]

/-- A number is the XOR of its binary digits, in the order in which a bit of the result meets FLIP's stages. -/
theorem xor_digits (n : BitVec 5) :
    (if n.getLsbD 4 then 16#5 else 0#5) ^^^ ((if n.getLsbD 3 then 8#5 else 0#5) ^^^ ((if n.getLsbD 2 then 4#5 else 0#5) ^^^
      ((if n.getLsbD 1 then 2#5 else 0#5) ^^^ (if n.getLsbD 0 then 1#5 else 0#5)))) = n := by
  decide +revert

/-- FLIP permutes the bits: bit `i` of the result is bit `i XOR N` of the source (R169). -/
theorem flipBits_getLsbD (x : Word) (n i : BitVec 5) :
    (flipBits x n).getLsbD i.toNat = x.getLsbD (i ^^^ n).toNat := by
  have bits := flipStage_getLsbD (m := 0x55555555#32) (p := 1#5) (by decide)
  have pairs := flipStage_getLsbD (m := 0x33333333#32) (p := 2#5) (by decide)
  have nybbles := flipStage_getLsbD (m := 0x0F0F0F0F#32) (p := 4#5) (by decide)
  have bytes := flipStage_getLsbD (m := 0x00FF00FF#32) (p := 8#5) (by decide)
  have wydes := flipStage_getLsbD (m := 0x0000FFFF#32) (p := 16#5) (by decide)
  calc (flipBits x n).getLsbD i.toNat
    _ = x.getLsbD _ :=
      (wydes _ _ _).trans <| (bytes _ _ _).trans <| (nybbles _ _ _).trans <| (pairs _ _ _).trans (bits _ _ _)
    _ = x.getLsbD (i ^^^ n).toNat := by simp only [BitVec.xor_assoc, xor_digits]

/-- Settles O21: FLIP's meaning is one `unarySlot`, on either shifter, over `flipBits`. -/
theorem flipPermutesBits : Obligations.FlipPermutesBits := by
  intro s ra n x
  exact ⟨rfl, fun hx => ⟨flipBits x n, writesReg_of_unarySlot rfl hx rfl, flipBits_getLsbD x n⟩⟩

end Sys2Proof.Machine
end

section
/-! The memory group's instructions that write a register and access no memory (42_memory_group.md R203): one `writeReg` in
a plain slot, which needs nothing of the state. -/

namespace Sys2Proof.Machine

/-- A slot whose effect is to write a named register completes in every state. -/
theorem plainSlot_writeReg {ra : RegNo} (hra : ra ≠ 15#4) (s : State) (value : State → Word) :
    (plainSlot s fun t => writeReg t ra (value t)) = .next (s.afterWrite ra (value s.enter)) :=
  plainSlot_eq_next.mpr ⟨_, writeReg_of_ne hra s.enter _, rfl⟩

theorem exec_imm12 (i12 : BitVec 12) (s : State) :
    exec (.imm12 i12) s = plainSlot s fun t => writeReg t 14#4 (i12.signExtend 32) :=
  rfl

/-- Settles O36: the encoder puts the opcode before I12, and the meaning is one `writeReg` of r14, which is not r15. -/
theorem imm12SignExtends : Obligations.Imm12SignExtends := by
  intro s i12
  have imm_ne : (14#4 : RegNo) ≠ 15#4 := by decide
  have completes : exec (.imm12 i12) s = .next (s.afterWrite 14#4 (i12.signExtend 32)) :=
    (exec_imm12 i12 s).trans (plainSlot_writeReg imm_ne s fun _ => i12.signExtend 32)
  exact ⟨rfl, writesReg_of_afterWrite imm_ne completes⟩

end Sys2Proof.Machine
end

section
/-! SKIP.cc as a shape (44_skip_spam.md R225): its word, the state it goes on to, and when an instruction whose meaning
is `skipPair` or `skipUnary` hands a given test to the next slot and changes nothing else. -/

namespace Sys2Proof

/-- The opcode and bits 7:4 of a word of formats X, K-rr and J are its twelve high bits. -/
theorem packPair_eq_append (op : BitVec 8) (rb ra : BitVec 4) : packPair op rb ra = (op ++ rb : BitVec 12) ++ ra :=
  BitVec.append_assoc.symm

/-- The opcode and the 5-bit field of a word of format S or layout K-b are its twelve high bits. -/
theorem packFive_eq_append (op : BitVec 7) (n : BitVec 5) (ra : RegNo) :
    packFive op n ra = (op ++ n : BitVec 12) ++ ra :=
  BitVec.append_assoc.symm

end Sys2Proof

namespace Sys2Proof.Machine

/-! ## What `afterTest` leaves unchanged -/

theorem regsSame_afterTest (s : State) (test : Bool) : regsSame s (s.afterTest test) := fun r => by
  rw [State.afterTest, State.setPc_reg?, State.setSkip_reg?, State.enter_reg?]

theorem restSame_afterTest (s : State) (test : Bool) : restSame s (s.afterTest test) := by
  simp [restSame, memSame, stackSame, systemSame, flagsSame, devicesSame, State.afterTest]

/-- An instruction that goes on to `afterTest` has handed its test on and changed nothing else. -/
theorem makesTest_of_afterTest {i : Instr} {s : State} {test : Bool} (h : exec i s = .next (s.afterTest test)) :
    makesTest i s test :=
  ⟨_, h, rfl, rfl, regsSame_afterTest s test, restSame_afterTest s test⟩

/-! ## The shapes of SKIP.cc -/

/-- Where R224 b and d let it execute, a SKIP on two registers hands on its condition of the two words. -/
theorem makesTest_of_skipPair {i : Instr} {s : State} {ra rb : RegNo} {cond : Word → Word → Bool} {x y : Word}
    {test : Bool} (hi : exec i s = skipPair s ra rb cond) (hs : s.unhindered) (hx : s.reg? ra = some x)
    (hy : s.reg? rb = some y) (ht : cond x y = test) : makesTest i s test :=
  makesTest_of_afterTest (hi.trans (skipPair_eq_next.mpr ⟨hs, x, y, hx, hy, by rw [ht]⟩))

/-- Where R224 b and d let it execute, a SKIP on one register hands on its condition of the word. -/
theorem makesTest_of_skipUnary {i : Instr} {s : State} {ra : RegNo} {cond : Word → Bool} {x : Word} {test : Bool}
    (hi : exec i s = skipUnary s ra cond) (hs : s.unhindered) (hx : s.reg? ra = some x) (ht : cond x = test) :
    makesTest i s test :=
  makesTest_of_afterTest (hi.trans (skipUnary_eq_next.mpr ⟨hs, x, hx, by rw [ht]⟩))

end Sys2Proof.Machine
end

section
/-! The conditions of SKIP.cc on whole registers (44_skip_spam.md R226 to R237, R242, R243, R250 to R253) as orders of
the words' unsigned and two's-complement values. The second condition of each pair is the negation of the first (R225). -/

namespace Sys2Proof.Machine

/-! ## Two registers -/

theorem condLo_eq_decide (x y : Word) : condLo x y = decide (x.toNat < y.toNat) :=
  BitVec.ult_eq_decide

theorem not_condLo_eq_decide (x y : Word) : (!condLo x y) = decide (y.toNat ≤ x.toNat) :=
  (BitVec.ule_eq_not_ult y x).symm

/-- The model writes R228 as "less, or the same word"; the word is fixed by its unsigned value. -/
theorem condLs_eq_decide (x y : Word) : condLs x y = decide (x.toNat ≤ y.toNat) := by
  have split : x.toNat ≤ y.toNat ↔ x.toNat < y.toNat ∨ x = y := by rw [Nat.le_iff_lt_or_eq, BitVec.toNat_inj]
  rw [condLs, BitVec.ult_eq_decide, Bool.beq_eq_decide_eq, ← Bool.decide_or, decide_eq_decide]
  exact split.symm

theorem condLt_eq_decide (x y : Word) : condLt x y = decide (x.toInt < y.toInt) :=
  BitVec.slt_eq_decide

theorem not_condLt_eq_decide (x y : Word) : (!condLt x y) = decide (y.toInt ≤ x.toInt) :=
  BitVec.sle_eq_not_slt.symm

theorem condLe_eq_decide (x y : Word) : condLe x y = decide (x.toInt ≤ y.toInt) :=
  BitVec.sle_eq_slt_or_eq.symm

theorem condEq_eq_decide (x y : Word) : condEq x y = decide (x = y) :=
  Bool.beq_eq_decide_eq x y

theorem not_condEq_eq_decide (x y : Word) : (!condEq x y) = decide (x ≠ y) := by
  rw [condEq_eq_decide, decide_not]

/-! ## One register -/

theorem condZ_eq_decide (x : Word) : condZ x = decide (x = 0#32) :=
  condEq_eq_decide x 0#32

theorem not_condZ_eq_decide (x : Word) : (!condZ x) = decide (x ≠ 0#32) :=
  not_condEq_eq_decide x 0#32

/-- Bit 31 is the sign. -/
theorem condBit_sign_eq_decide (x : Word) : condBit x 31#5 = decide (x.toInt < 0) :=
  (BitVec.msb_eq_getLsbD_last x).symm.trans BitVec.msb_eq_toInt

theorem not_condBit_sign_eq_decide (x : Word) : (!condBit x 31#5) = decide (0 ≤ x.toInt) := by
  rw [condBit_sign_eq_decide, ← decide_not, decide_eq_decide, Int.not_lt]

/-- "Zero, or bit 31 set" is "zero, or less than zero" (R242). -/
theorem condLez_eq_decide (x : Word) : condLez x = decide (x.toInt ≤ 0) :=
  calc condLez x
    _ = (condEq x 0#32 || condBit x 31#5) := rfl
    _ = (condLt x 0#32 || condEq x 0#32) := by
      rw [Bool.or_comm, condBit_sign_eq_decide, condLt_eq_decide, BitVec.toInt_zero]
    _ = condLe x 0#32 := rfl
    _ = decide (x.toInt ≤ 0) := condLe_eq_decide x 0#32

theorem not_condLez_eq_decide (x : Word) : (!condLez x) = decide (0 < x.toInt) := by
  rw [condLez_eq_decide, ← decide_not, decide_eq_decide, Int.not_le]

end Sys2Proof.Machine
end

section
/-! SKIP on two registers (44_skip_spam.md R226 to R235) and on zero, sign and one bit of a register (R236, R237, R242,
R243, R250 to R253). -/

namespace Sys2Proof.Machine

/-- Settles O38: each word is its opcode before the two register numbers, and each meaning is one `skipPair`; "greater"
exchanges the operands of "less" (R229, R233). -/
theorem skipRegisterPairTests : Obligations.SkipRegisterPairTests := by
  intro s ra rb x y
  refine ⟨⟨rfl, rfl, rfl, rfl, rfl, rfl, rfl, rfl, rfl, rfl⟩, fun hx hy hs => ?_⟩
  have hands {i : Instr} {cond : Word → Word → Bool} {test : Bool} (ht : cond x y = test)
      (hi : exec i s = skipPair s ra rb cond) : makesTest i s test := makesTest_of_skipPair hi hs hx hy ht
  exact ⟨hands (condLo_eq_decide x y) rfl, hands (not_condLo_eq_decide x y) rfl, hands (condLs_eq_decide x y) rfl,
    hands (cond := fun x y => condLo y x) (condLo_eq_decide y x) rfl, hands (condLt_eq_decide x y) rfl,
    hands (not_condLt_eq_decide x y) rfl, hands (condLe_eq_decide x y) rfl,
    hands (cond := fun x y => condLt y x) (condLt_eq_decide y x) rfl, hands (condEq_eq_decide x y) rfl,
    hands (not_condEq_eq_decide x y) rfl⟩

/-- Settles O39: the words of the tests on zero and sign have their twelve high bits fixed, and each meaning is one
`skipUnary`; PL and MI test bit 31. -/
theorem skipUnaryTests : Obligations.SkipUnaryTests := by
  intro s ra k x
  refine ⟨?words, fun hx hs => ?tests⟩
  case words =>
    have pair (op : BitVec 8) (sub : BitVec 4) := packPair_eq_append op sub ra
    have five (op : BitVec 7) := packFive_eq_append op 31#5 ra
    exact ⟨pair _ _, pair _ _, pair _ _, pair _ _, rfl, rfl, five _, five _⟩
  case tests =>
    have hands {i : Instr} {cond : Word → Bool} {test : Bool} (ht : cond x = test)
        (hi : exec i s = skipUnary s ra cond) : makesTest i s test := makesTest_of_skipUnary hi hs hx ht
    exact ⟨hands (condZ_eq_decide x) rfl, hands (not_condZ_eq_decide x) rfl, hands (condLez_eq_decide x) rfl,
      hands (not_condLez_eq_decide x) rfl, hands (cond := fun x => condBit x k) rfl rfl,
      hands (cond := fun x => !condBit x k) rfl rfl, hands (not_condBit_sign_eq_decide x) rfl,
      hands (condBit_sign_eq_decide x) rfl⟩

end Sys2Proof.Machine
end

section
/-! Jumps as a shape (45_control_transfer.md R270, R271): the state a transfer that touches no return stack goes on to, and
when an instruction whose meaning is `jumpSlot` completes with control going to a given target. -/

namespace Sys2Proof.Machine

/-- The state after an executed control transfer that neither pushes nor pops: at the target (DNULL = 1), or at the delay
slot with the target pending (DNULL = 0) (R271). -/
def State.afterJump (s : State) (dnull : Bool) (target : Word) : State :=
  if dnull then s.enter.setPc target else (s.enter.setDelay (some target)).setPc (s.pc + 2#32)

theorem goesTo_afterJump (s : State) (dnull : Bool) (target : Word) :
    goesTo s (s.afterJump dnull target) dnull target := by
  cases dnull with
  | true | false => exact ⟨rfl, rfl⟩

theorem regsSame_afterJump (s : State) (dnull : Bool) (target : Word) : regsSame s (s.afterJump dnull target) := by
  cases dnull with
  | true | false => exact fun r => rfl

theorem restSame_afterJump (s : State) (dnull : Bool) (target : Word) : restSame s (s.afterJump dnull target) := by
  cases dnull with
  | true | false => simp [restSame, memSame, stackSame, systemSame, flagsSame, devicesSame, State.afterJump]

/-- Where R224 a and c let it execute, a jump to an even target goes there (R273) and changes nothing else. -/
theorem transfers_of_jumpSlot {i : Instr} {s : State} {dnull : Bool} {target : State → Res Word} {a : Word}
    (hi : exec i s = jumpSlot s dnull target) (hs : s.unhindered) (ha : target s.enter = .next a)
    (heven : a.getLsbD 0 = false) : transfers i s dnull a := by
  have completes : jumpSlot s dnull target = .next (s.afterJump dnull a) :=
    jumpSlot_eq_next.mpr ⟨hs, a, ha, transferTo_eq_next.mpr ⟨heven, rfl⟩⟩
  exact ⟨_, hi.trans completes, goesTo_afterJump s dnull a, regsSame_afterJump s dnull a, restSame_afterJump s dnull a⟩

end Sys2Proof.Machine
end

section
/-! Short branches (45_control_transfer.md R276, R277): the target as the spec writes it is the one the model computes, and
it is even where the pc is. -/

namespace Sys2Proof.Machine

/-- Shifting the sign-extended offset left by one doubles its signed value (R105, R276). -/
theorem shortTarget_eq_shortBranch (s : State) (i9 : BitVec 9) : shortTarget s i9 = shortBranch s i9 := by
  have double : i9.signExtend 32 <<< 1 = BitVec.ofInt 32 (2 * i9.toInt) :=
    calc i9.signExtend 32 <<< 1
      _ = BitVec.ofInt 32 i9.toInt * 2#32 := BitVec.shiftLeft_eq_mul_twoPow _ _
      _ = 2#32 * BitVec.ofInt 32 i9.toInt := BitVec.mul_comm _ _
      _ = BitVec.ofInt 32 (2 * i9.toInt) := (BitVec.ofInt_mul 2 i9.toInt).symm
  exact congrArg (s.pc + ·) double

/-- An even address plus a word shifted left by one is even. -/
theorem add_shiftLeft_one_even {a : Word} (h : a.getLsbD 0 = false) (x : Word) : (a + x <<< 1).getLsbD 0 = false := by
  rw [BitVec.getLsbD_add (by decide), h, BitVec.getLsbD_shiftLeft]
  simp

theorem shortBranch_even {s : State} (h : s.pc.getLsbD 0 = false) (i9 : BitVec 9) :
    (shortBranch s i9).getLsbD 0 = false :=
  shortTarget_eq_shortBranch s i9 ▸ add_shiftLeft_one_even h (i9.signExtend 32)

/-- Settles O44: each word is its opcode before I9, and each meaning is one `jumpSlot` to the short branch's target, which is
even because the pc is. -/
theorem shortBranchTargets : Obligations.ShortBranchTargets := by
  intro s i9
  refine ⟨⟨rfl, rfl⟩, fun hpc hs => ?_⟩
  have goes {i : Instr} {dnull : Bool} (hi : exec i s = jumpSlot s dnull fun t => .next (shortTarget t i9)) :
      transfers i s dnull (shortBranch s i9) :=
    transfers_of_jumpSlot hi hs (by rw [shortTarget_enter, shortTarget_eq_shortBranch]) (shortBranch_even hpc i9)
  exact ⟨goes rfl, goes rfl⟩

end Sys2Proof.Machine
end

section
/-! The fields of a packed word (30_encoding.md R91 to R104): what the decoder's field functions read from the words that
the encoder packs, format by format. The opcode of a format is read in parts, so one lemma per format says what any run of
opcode bits is. -/

namespace Sys2Proof

open Machine

/-! ## Formats L and A -/

@[simp] theorem extractLsb'_packAlu {start len : Nat} (h : 11 ≤ start) (op : BitVec 5) (b : Opb) (ra : RegNo) :
    (packAlu op b ra).extractLsb' start len = op.extractLsb' (start - 11) len :=
  BitVec.extractLsb'_append_eq_of_le h

@[simp] theorem fieldRa_packAlu (op : BitVec 5) (b : Opb) (ra : RegNo) : fieldRa (packAlu op b ra) = ra := by
  rw [packAlu_eq_append]
  exact BitVec.extractLsb'_append_eq_right

theorem extractLsb'_packAlu_opb {start len : Nat} (h : 4 ≤ start) (h' : start + len ≤ 11) (op : BitVec 5) (b : Opb)
    (ra : RegNo) : (packAlu op b ra).extractLsb' start len = (encodeOpb b).extractLsb' (start - 4) len :=
  (BitVec.extractLsb'_append_eq_of_add_le h').trans (BitVec.extractLsb'_append_eq_of_le h)

theorem extractLsb'_encodeOpb_ctl (b : Opb) : (encodeOpb b).extractLsb' 5 2 = (opbField b).1 := by
  rw [encodeOpb_eq_opbField]
  exact BitVec.extractLsb'_append_eq_left

theorem extractLsb'_encodeOpb_field (b : Opb) : (encodeOpb b).extractLsb' 0 5 = (opbField b).2 := by
  rw [encodeOpb_eq_opbField]
  exact BitVec.extractLsb'_append_eq_right

/-- The register form has bit 8 = 0 and its register number below (R104). -/
theorem extractLsb'_encodeOpb_reg (rb : RegNo) :
    (encodeOpb (.reg rb)).extractLsb' 4 1 = 0#1 ∧ (encodeOpb (.reg rb)).extractLsb' 0 4 = rb :=
  ⟨BitVec.extractLsb'_append_eq_of_le (by decide), BitVec.extractLsb'_append_eq_right⟩

/-- OPB_CTL and OPB are read back as the operand they stand for (R104). -/
@[simp] theorem decodeOpb_packAlu (op : BitVec 5) (b : Opb) (ra : RegNo) : decodeOpb (packAlu op b ra) = some b := by
  have ctl := extractLsb'_encodeOpb_ctl b
  have field := extractLsb'_encodeOpb_field b
  cases b with
  | reg rb => simp [decodeOpb, fieldBit, fieldRb, extractLsb'_packAlu_opb, ctl, opbField, extractLsb'_encodeOpb_reg]
  | simm v | pow2 n | mask n => simp [decodeOpb, fieldFive, extractLsb'_packAlu_opb, ctl, field, opbField]

/-! ## Format S and layout K-b -/

@[simp] theorem extractLsb'_packFive {start len : Nat} (h : 9 ≤ start) (op : BitVec 7) (n : BitVec 5) (ra : RegNo) :
    (packFive op n ra).extractLsb' start len = op.extractLsb' (start - 9) len :=
  BitVec.extractLsb'_append_eq_of_le h

@[simp] theorem fieldFive_packFive (op : BitVec 7) (n : BitVec 5) (ra : RegNo) : fieldFive (packFive op n ra) = n :=
  (BitVec.extractLsb'_append_eq_of_add_le (by decide)).trans BitVec.extractLsb'_append_eq_left

@[simp] theorem fieldRa_packFive (op : BitVec 7) (n : BitVec 5) (ra : RegNo) : fieldRa (packFive op n ra) = ra := by
  rw [packFive_eq_append]
  exact BitVec.extractLsb'_append_eq_right

/-! ## Format X, layouts K-rr and K-u, format J -/

@[simp] theorem extractLsb'_packPair {start len : Nat} (h : 8 ≤ start) (op : BitVec 8) (rb ra : BitVec 4) :
    (packPair op rb ra).extractLsb' start len = op.extractLsb' (start - 8) len :=
  BitVec.extractLsb'_append_eq_of_le h

@[simp] theorem fieldRb_packPair (op : BitVec 8) (rb ra : BitVec 4) : fieldRb (packPair op rb ra) = rb :=
  (BitVec.extractLsb'_append_eq_of_add_le (by decide)).trans BitVec.extractLsb'_append_eq_left

@[simp] theorem fieldRa_packPair (op : BitVec 8) (rb ra : BitVec 4) : fieldRa (packPair op rb ra) = ra := by
  rw [packPair_eq_append]
  exact BitVec.extractLsb'_append_eq_right

/-! ## Format M -/

@[simp] theorem fieldMajor_packMem (op : BitVec 4) (m : BitVec 1) (z : BitVec 3) (rb ra : BitVec 4) :
    fieldMajor (packMem op m z rb ra) = op :=
  BitVec.extractLsb'_append_eq_left

@[simp] theorem fieldBit_packMem (op : BitVec 4) (m : BitVec 1) (z : BitVec 3) (rb ra : BitVec 4) :
    fieldBit 11 (packMem op m z rb ra) = m :=
  (BitVec.extractLsb'_append_eq_of_add_le (by decide)).trans BitVec.extractLsb'_append_eq_left

theorem extractLsb'_packMem {start len : Nat} (h : 8 ≤ start) (h' : start + len ≤ 11) (op : BitVec 4) (m : BitVec 1)
    (z : BitVec 3) (rb ra : BitVec 4) : (packMem op m z rb ra).extractLsb' start len = z.extractLsb' (start - 8) len :=
  (BitVec.extractLsb'_append_eq_of_add_le (Nat.le_trans h' (by decide))).trans <|
    (BitVec.extractLsb'_append_eq_of_add_le h').trans (BitVec.extractLsb'_append_eq_of_le h)

/-- SIZE (R96). -/
@[simp] theorem size_packMem (op : BitVec 4) (m : BitVec 1) (z : BitVec 3) (rb ra : BitVec 4) :
    (packMem op m z rb ra).extractLsb' 9 2 = z.extractLsb' 1 2 :=
  extractLsb'_packMem (by decide) (by decide) ..

/-- Bit 8: SIGN, or LEA's mark (R96). -/
@[simp] theorem sign_packMem (op : BitVec 4) (m : BitVec 1) (z : BitVec 3) (rb ra : BitVec 4) :
    fieldBit 8 (packMem op m z rb ra) = z.extractLsb' 0 1 :=
  extractLsb'_packMem (by decide) (by decide) ..

@[simp] theorem fieldRb_packMem (op : BitVec 4) (m : BitVec 1) (z : BitVec 3) (rb ra : BitVec 4) :
    fieldRb (packMem op m z rb ra) = rb :=
  (BitVec.extractLsb'_append_eq_of_add_le (by decide)).trans <|
    (BitVec.extractLsb'_append_eq_of_add_le (by decide)).trans <|
      (BitVec.extractLsb'_append_eq_of_add_le (by decide)).trans BitVec.extractLsb'_append_eq_left

@[simp] theorem fieldRa_packMem (op : BitVec 4) (m : BitVec 1) (z : BitVec 3) (rb ra : BitVec 4) :
    fieldRa (packMem op m z rb ra) = ra :=
  (BitVec.extractLsb'_append_eq_of_add_le (by decide)).trans <|
    (BitVec.extractLsb'_append_eq_of_add_le (by decide)).trans <|
      (BitVec.extractLsb'_append_eq_of_add_le (by decide)).trans BitVec.extractLsb'_append_eq_right

/-- MODE is read back as the addressing mode (R96). -/
@[simp] theorem decodeMode_packMem (op : BitVec 4) (m : AddrMode) (z : BitVec 3) (rb ra : BitVec 4) :
    decodeMode (packMem op (encodeMode m) z rb ra) = m := by
  cases m <;> simp [decodeMode, encodeMode]

/-- MODE is read back as the stack base (R96, R184). -/
@[simp] theorem decodeBase_packMem (op : BitVec 4) (b : StackBase) (z : BitVec 3) (rb ra : BitVec 4) :
    decodeBase (packMem op (encodeBase b) z rb ra) = b := by
  cases b <;> simp [decodeBase, encodeBase]

/-! ## Formats B, P and T, W and C -/

@[simp] theorem extractLsb'_packBranch {start len : Nat} (h : 9 ≤ start) (op : BitVec 7) (i9 : BitVec 9) :
    (packBranch op i9).extractLsb' start len = op.extractLsb' (start - 9) len :=
  BitVec.extractLsb'_append_eq_of_le h

@[simp] theorem fieldI9_packBranch (op : BitVec 7) (i9 : BitVec 9) : fieldI9 (packBranch op i9) = i9 :=
  BitVec.extractLsb'_append_eq_right

@[simp] theorem extractLsb'_packEight {start len : Nat} (h : 8 ≤ start) (op x : BitVec 8) :
    (packEight op x).extractLsb' start len = op.extractLsb' (start - 8) len :=
  BitVec.extractLsb'_append_eq_of_le h

@[simp] theorem fieldLow8_packEight (op x : BitVec 8) : fieldLow8 (packEight op x) = x :=
  BitVec.extractLsb'_append_eq_right

@[simp] theorem fieldMajor_packTwelve (op : BitVec 4) (x : BitVec 12) : fieldMajor (packTwelve op x) = op :=
  BitVec.extractLsb'_append_eq_left

@[simp] theorem fieldLow12_packTwelve (op : BitVec 4) (x : BitVec 12) : fieldLow12 (packTwelve op x) = x :=
  BitVec.extractLsb'_append_eq_right

end Sys2Proof
end

section
/-! Decoding an encoded instruction (30_encoding.md R91, R109, R110): the decoder takes the major opcode first, so each
group of instructions needs only its own part of it. -/

namespace Sys2Proof

/-! ## The decoder by major opcode (R91) -/

theorem decodeWord_alu {w : Wyde} (h : (fieldMajor w).toNat < 7) : decodeWord w = decodeAlu w := by
  have ne (op : BitVec 4) (hop : 7 ≤ op.toNat) : fieldMajor w ≠ op := fun e => by
    rw [e] at h
    omega
  simp [decodeWord, ne]

theorem decodeWord_shift {w : Wyde} (h : fieldMajor w = 7#4) : decodeWord w = decodeShift w := by simp [decodeWord, h]

theorem decodeWord_load {w : Wyde} (h : fieldMajor w = 8#4) : decodeWord w = decodeLoad w := by simp [decodeWord, h]

theorem decodeWord_store {w : Wyde} (h : fieldMajor w = 9#4) : decodeWord w = decodeStore w := by simp [decodeWord, h]

theorem decodeWord_coproc {w : Wyde} (h : fieldMajor w = 12#4) : decodeWord w = decodeCoproc w := by simp [decodeWord, h]

theorem decodeWord_skip {w : Wyde} (h : fieldMajor w = 13#4) : decodeWord w = decodeSkip w := by simp [decodeWord, h]

theorem decodeWord_branch {w : Wyde} (h : fieldMajor w = 14#4) : decodeWord w = decodeBranch w := by simp [decodeWord, h]

theorem decodeWord_control {w : Wyde} (h : fieldMajor w = 15#4) : decodeWord w = decodeControl w := by
  simp [decodeWord, h]

/-! ## Opcode bits that are operands (R110) -/

/-- The register-form OPB with bit 8 = 1: OPB_CTL, bit 8, the operation, bit 11, and a major opcode under 0111. -/
theorem undefRegOpb_opcode (op : BitVec 3) (b11 : BitVec 1) :
    ((0#1 ++ (op ++ (b11 ++ 0b001#3)) : BitVec 8).extractLsb' 1 2 = 0#2 ∧
      (0#1 ++ (op ++ (b11 ++ 0b001#3)) : BitVec 8).extractLsb' 0 1 = 1#1 ∧
      (0#1 ++ (op ++ (b11 ++ 0b001#3)) : BitVec 8).extractLsb' 4 3 = op ∧
      (0#1 ++ (op ++ (b11 ++ 0b001#3)) : BitVec 8).extractLsb' 3 1 = b11) ∧
    (op ≠ 7#3 → ((0#1 ++ (op ++ (b11 ++ 0b001#3)) : BitVec 8).extractLsb' 4 4).toNat < 7) := by
  decide +revert

theorem decodeWord_encode_undefRegOpb {op : BitVec 3} (h : op ≠ 7#3) (b11 : BitVec 1) (ra rb : RegNo) :
    decodeWord (encode (.undefRegOpb op b11 ra rb)) = .undefRegOpb op b11 ra rb := by
  obtain ⟨⟨ctl, bit8, hop, hb11⟩, major⟩ := undefRegOpb_opcode op b11
  have alu : (fieldMajor (encode (.undefRegOpb op b11 ra rb))).toNat < 7 := by
    simpa [encode, fieldMajor] using major h
  rw [decodeWord_alu alu]
  simp [encode, decodeAlu, decodeOpb, fieldBit, ctl, bit8, hop, hb11]

/-- The coprocessor skips have the sub-codes 1000 to 1111, whose low bits are CCC (R99). -/
theorem decodeSkipUnary_coproc (ccc : BitVec 3) (sense : BitVec 1) (n : BitVec 4) :
    decodeSkipUnary (1#1 ++ ccc) sense n = if sense = 0#1 then .skipCpt ccc n else .skipCpf ccc n := by
  have ne : ∀ sub : BitVec 4, sub.toNat < 8 → 1#1 ++ ccc ≠ sub := by decide +revert
  have low : (1#1 ++ ccc : BitVec 4).extractLsb' 0 3 = ccc := by decide +revert
  simp [decodeSkipUnary, ne, low]

/-- SPAM: major opcode 1111, bit 11 = 0, then TRUNC. -/
theorem spamXorn_opcode (trunc : BitVec 3) :
    (0b11110#5 ++ trunc : BitVec 8).extractLsb' 4 4 = 15#4 ∧ (0b11110#5 ++ trunc : BitVec 8).extractLsb' 3 1 = 0#1 ∧
      (0b11110#5 ++ trunc : BitVec 8).extractLsb' 0 3 = trunc := by
  decide +revert

/-- Format J: bits 10:9 between bit 11 = 1 and bit 8 = 0. -/
theorem undefJ_opcode (b : BitVec 2) :
    (0b11111#5 ++ (b ++ 0#1) : BitVec 8).extractLsb' 4 4 = 15#4 ∧
      (0b11111#5 ++ (b ++ 0#1) : BitVec 8).extractLsb' 3 1 = 1#1 ∧
      (0b11111#5 ++ (b ++ 0#1) : BitVec 8).extractLsb' 1 2 = b ∧
      (0b11111#5 ++ (b ++ 0#1) : BitVec 8).extractLsb' 0 1 = 0#1 := by
  decide +revert

/-! ## The round trip, by major opcode -/

/-- Settles O1: one case per group of the opcode map. The fields of the packed word are the operands, so the group's part of
the decoder finds the instruction; where an earlier row claims an operand, well-formedness excludes it. -/
theorem decodeOfEncode : Obligations.DecodeOfEncode := by
  intro i hw
  cases i
  -- major opcodes 0000 to 0110
  case nop => rfl
  case undefRegOpb op b11 ra rb => exact decodeWord_encode_undefRegOpb (by simpa [Instr.wellFormed] using hw) b11 ra rb
  case mov ra b =>
    have notNop : ¬ (b = .reg 0#4 ∧ ra = 0#4) := not_and_or.mpr (by simp_all [Instr.wellFormed])
    simp_all [Instr.wellFormed, encode, decodeWord_alu, decodeAlu, decodeAluOp, fieldMajor]
  case clr | not | inc | dec | neg | movNot | and | andNot | or | orNot | xor | xorNot | add | addSnc | sub | subSnb | rsub
      | rsubSnb =>
    simp_all [Instr.wellFormed, encode, decodeWord_alu, decodeAlu, decodeAluOp, fieldMajor]
  -- major opcode 0111
  case rolOne | lsr | lsl | asr | flip | ror | rol | extUw | extSw | extUb | extSb =>
    simp_all [Instr.wellFormed, encode, decodeWord_shift, decodeShift, fieldMajor]
  -- major opcode 1000
  case ldqRs a => cases a <;> simp [encode, packQuad, decodeWord_load, decodeLoad]
  case undefLdQuadSign m z ra rb =>
    obtain rfl | rfl := BitVec.eq_zero_or_eq_one z <;> simp [encode, decodeWord_load, decodeLoad]
  case ldqStack | ldq | lduw | ldsw | ldub | ldsb =>
    simp_all [Instr.wellFormed, encode, packQuad, decodeWord_load, decodeLoad]
  -- major opcode 1001
  case stqRs a => cases a <;> simp [encode, packQuad, decodeWord_store, decodeStore]
  case lea ra m size rb => cases size <;> simp [encode, decodeWord_store, decodeStore, encodeLeaSize]
  case stqStack | stq | stw | stb | undefLeaSize =>
    simp_all [Instr.wellFormed, encode, packQuad, decodeWord_store, decodeStore]
  -- major opcodes 1010 to 1100
  case ldi | imm12 => simp [encode, decodeWord]
  case di | ei => rfl
  case undefCoproc => simp_all [Instr.wellFormed, encode, decodeWord_coproc, decodeCoproc]
  -- major opcode 1101
  case skipA | skipN => rfl
  case skipEq ra rb | skipNe ra rb =>
    have notAlways : ¬ (ra = 0#4 ∧ rb = 0#4) := not_and_or.mpr (by simp_all [Instr.wellFormed])
    simp [encode, decodeWord_skip, decodeSkip, decodeSkipPair, fieldMajor, fieldBit, notAlways]
  case skipLo | skipHs | skipLs | skipHi | skipLt | skipGe | skipLe | skipGt =>
    simp [encode, decodeWord_skip, decodeSkip, decodeSkipPair, fieldMajor, fieldBit]
  case skipZ | skipNz | skipAwz | skipNwz | skipAbz | skipNbz | skipLez | skipGtz | skipAwm | skipNwm | skipAbm | skipNbm
      | skipFs | skipFc =>
    simp [encode, decodeWord_skip, decodeSkip, decodeSkipUnary, fieldMajor, fieldBit]
  case undefScc sense ra =>
    obtain rfl | rfl := BitVec.eq_zero_or_eq_one sense <;>
      simp [encode, decodeWord_skip, decodeSkip, decodeSkipUnary, fieldMajor, fieldBit]
  case skipCpt | skipCpf => simp [encode, decodeWord_skip, decodeSkip, decodeSkipUnary_coproc, fieldMajor, fieldBit]
  case skipMi | skipPl | skipBs | skipBc =>
    simp_all [Instr.wellFormed, encode, decodeWord_skip, decodeSkip, decodeSkipBit, fieldMajor, fieldBit]
  -- major opcode 1110
  case braD | bra | bsrD | bsr | lbraD | lbra | lbsrD | lbsr =>
    simp [encode, decodeWord_branch, decodeBranch, fieldMajor]
  -- major opcode 1111
  case spamAnd | trapD | trap => simp [encode, decodeWord_control, decodeControl, fieldMajor, fieldBit]
  case spamXorn trunc mask =>
    obtain ⟨major, bit11, htrunc⟩ := spamXorn_opcode trunc
    simp_all [Instr.wellFormed, encode, decodeWord_control, decodeControl, fieldMajor, fieldBit]
  case undefBit10 b9 x =>
    obtain rfl | rfl := BitVec.eq_zero_or_eq_one b9 <;>
      simp [encode, decodeWord_control, decodeControl, fieldMajor, fieldBit]
  case undefJ b sub ra =>
    obtain ⟨major, bit11, bits, bit8⟩ := undefJ_opcode b
    have notReturn : ¬ (sub = 2#4 ∧ ra = 0#4) := not_and_or.mpr (by simp_all [Instr.wellFormed])
    simp_all [Instr.wellFormed, encode, decodeWord_control, decodeControl, decodeJump, fieldMajor, fieldBit]
  case rtsD | rts | rtiD | rti => rfl
  case jmpD | jmp | jsrD | jsr | rbraD | rbra | rbsrD | rbsr =>
    simp [encode, decodeWord_control, decodeControl, decodeJump, fieldMajor, fieldBit]

end Sys2Proof
end

section
/-! Every word is the word of a well-formed instruction (30_encoding.md R90, R110): the words of each major opcode, told
apart by their opcode bits in the order of the opcode map. With the round trip of `decodeOfEncode` the decoder then finds
that instruction in every word. -/

namespace Sys2Proof

/-- The word is that of an instruction which its row of the opcode table admits. -/
def IsEncoding (w : Wyde) : Prop := ∃ i : Instr, i.wellFormed = true ∧ encode i = w

/-! ## Words by their fields -/

theorem exists_append {m n : Nat} (x : BitVec (m + n)) : ∃ (hi : BitVec m) (lo : BitVec n), x = hi ++ lo :=
  ⟨x.extractLsb' n m, x.extractLsb' 0 n, by
    rw [BitVec.extractLsb'_append_extractLsb'_eq_extractLsb' (Nat.zero_add n).symm, BitVec.extractLsb'_eq_self]⟩

theorem two_bits (x : BitVec 2) : x = 0#2 ∨ x = 1#2 ∨ x = 2#2 ∨ x = 3#2 := by decide +revert

theorem three_bits (x : BitVec 3) :
    x = 0#3 ∨ x = 1#3 ∨ x = 2#3 ∨ x = 3#3 ∨ x = 4#3 ∨ x = 5#3 ∨ x = 6#3 ∨ x = 7#3 := by decide +revert

theorem four_bits (x : BitVec 4) :
    x = 0#4 ∨ x = 1#4 ∨ x = 2#4 ∨ x = 3#4 ∨ x = 4#4 ∨ x = 5#4 ∨ x = 6#4 ∨ x = 7#4 ∨
      x = 8#4 ∨ x = 9#4 ∨ x = 10#4 ∨ x = 11#4 ∨ x = 12#4 ∨ x = 13#4 ∨ x = 14#4 ∨ x = 15#4 := by decide +revert

theorem packTwelve_five (op : BitVec 4) (o : BitVec 3) (n : BitVec 5) (ra : RegNo) :
    packTwelve op (o ++ (n ++ ra)) = packFive (op ++ o) n ra :=
  (BitVec.append_assoc (x₁ := op) (x₂ := o) (x₃ := n ++ ra)).symm

theorem packTwelve_pair (op o rb ra : BitVec 4) : packTwelve op (o ++ (rb ++ ra)) = packPair (op ++ o) rb ra :=
  (BitVec.append_assoc (x₁ := op) (x₂ := o) (x₃ := rb ++ ra)).symm

theorem packTwelve_branch (op : BitVec 4) (o : BitVec 3) (i9 : BitVec 9) :
    packTwelve op (o ++ i9) = packBranch (op ++ o) i9 :=
  (BitVec.append_assoc (x₁ := op) (x₂ := o) (x₃ := i9)).symm

theorem packTwelve_eight (op o : BitVec 4) (x : BitVec 8) : packTwelve op (o ++ x) = packEight (op ++ o) x :=
  (BitVec.append_assoc (x₁ := op) (x₂ := o) (x₃ := x)).symm

theorem packTwelve_alu (op : BitVec 4) (o : BitVec 1) (b : Opb) (ra : RegNo) :
    packTwelve op (o ++ (encodeOpb b ++ ra)) = packAlu (op ++ o) b ra :=
  (BitVec.append_assoc (x₁ := op) (x₂ := o) (x₃ := encodeOpb b ++ ra)).symm

/-- The top bit of the 5-bit field under a 7-bit opcode is the last bit of an 8-bit opcode. -/
theorem packFive_append (op : BitVec 7) (b : BitVec 1) (rb ra : BitVec 4) :
    packFive op (b ++ rb) ra = packPair (op ++ b) rb ra := by
  rw [packFive_eq_append, packPair_eq_append]
  exact congrArg (fun x : BitVec 12 => x ++ ra) (BitVec.append_assoc (x₁ := op) (x₂ := b) (x₃ := rb)).symm

/-! ## Major opcodes 0000 to 0110 -/

/-- OPB_CTL and OPB stand for an operand, or are the register form with bit 8 = 1 (R104, R110). -/
theorem opb_or_undefined (x : BitVec 7) : (∃ b, x = encodeOpb b) ∨ ∃ rb : RegNo, x = 0b001#3 ++ rb := by
  obtain ⟨ctl, field, rfl⟩ := exists_append (m := 2) (n := 5) x
  obtain rfl | rfl | rfl | rfl := two_bits ctl
  · obtain ⟨bit8, rb, rfl⟩ := exists_append (m := 1) (n := 4) field
    obtain rfl | rfl := BitVec.eq_zero_or_eq_one bit8
    · exact .inl ⟨.reg rb, (BitVec.append_assoc (x₁ := 0#2) (x₂ := 0#1) (x₃ := rb)).symm⟩
    · exact .inr ⟨rb, (BitVec.append_assoc (x₁ := 0#2) (x₂ := 1#1) (x₃ := rb)).symm⟩
  · exact .inl ⟨.simm field, rfl⟩
  · exact .inl ⟨.pow2 field, rfl⟩
  · exact .inl ⟨.mask field, rfl⟩

/-- Where one immediate of an operation is another row's, that row has the word (R113). -/
theorem isEncoding_of_simm {op v : BitVec 5} {b : Opb} {ra : RegNo} {i j : Instr} (hi : i.wellFormed = true)
    (hei : encode i = packAlu op (.simm v) ra) (hj : b ≠ .simm v → j.wellFormed = true)
    (hej : encode j = packAlu op b ra) : IsEncoding (packAlu op b ra) :=
  if h : b = .simm v then ⟨i, hi, h ▸ hei⟩ else ⟨j, hj h, hej⟩

theorem isEncoding_mov (b : Opb) (ra : RegNo) : IsEncoding (packAlu 0#5 b ra) := by
  by_cases nop : b = .reg 0#4 ∧ ra = 0#4
  · obtain ⟨rfl, rfl⟩ := nop
    exact ⟨.nop, rfl, rfl⟩
  · exact isEncoding_of_simm (i := .clr ra) (j := .mov ra b) (v := 0#5) rfl rfl
      (fun h => by simpa [Instr.wellFormed, h, ← not_and_or] using nop) rfl

theorem isEncoding_undefRegOpb {op : BitVec 3} (hop : op ≠ 7#3) (b11 : BitVec 1) (rb ra : RegNo) :
    IsEncoding (packTwelve (0#1 ++ op) (b11 ++ ((0b001#3 ++ rb) ++ ra))) := by
  have regroup : (b11 ++ ((0b001#3 ++ rb) ++ ra) : BitVec 12) = (b11 ++ 0b001#3 : BitVec 4) ++ (rb ++ ra) :=
    calc (b11 ++ ((0b001#3 ++ rb) ++ ra) : BitVec 12)
      _ = b11 ++ (0b001#3 ++ (rb ++ ra) : BitVec 11) :=
        congrArg (b11 ++ ·) (BitVec.append_assoc (x₁ := 0b001#3) (x₂ := rb) (x₃ := ra))
      _ = (b11 ++ 0b001#3 : BitVec 4) ++ (rb ++ ra) :=
        (BitVec.append_assoc (x₁ := b11) (x₂ := 0b001#3) (x₃ := rb ++ ra)).symm
  have opcode : (0#1 ++ (op ++ (b11 ++ 0b001#3)) : BitVec 8) = (0#1 ++ op : BitVec 4) ++ (b11 ++ 0b001#3 : BitVec 4) := by
    decide +revert
  refine ⟨.undefRegOpb op b11 ra rb, by simpa [Instr.wellFormed] using hop, ?_⟩
  rw [regroup, packTwelve_pair, ← opcode, encode]

theorem isEncoding_alu {op : BitVec 3} (hop : op ≠ 7#3) (x : BitVec 12) : IsEncoding (packTwelve (0#1 ++ op) x) := by
  obtain ⟨b11, y, rfl⟩ := exists_append (m := 1) (n := 11) x
  obtain ⟨z, ra, rfl⟩ := exists_append (m := 7) (n := 4) y
  obtain ⟨b, rfl⟩ | ⟨rb, rfl⟩ := opb_or_undefined z
  case inr => exact isEncoding_undefRegOpb hop b11 rb ra
  rw [packTwelve_alu]
  obtain rfl | rfl := BitVec.eq_zero_or_eq_one b11 <;>
    obtain rfl | rfl | rfl | rfl | rfl | rfl | rfl | rfl := three_bits op
  exacts [isEncoding_mov b ra, ⟨.and ra b, rfl, rfl⟩, ⟨.or ra b, rfl, rfl⟩,
    isEncoding_of_simm (i := .not ra) (j := .xor ra b) rfl rfl (by simp [Instr.wellFormed]) rfl,
    isEncoding_of_simm (i := .inc ra) (j := .add ra b) rfl rfl (by simp [Instr.wellFormed]) rfl,
    isEncoding_of_simm (i := .dec ra) (j := .sub ra b) rfl rfl (by simp [Instr.wellFormed]) rfl,
    isEncoding_of_simm (i := .neg ra) (j := .rsub ra b) rfl rfl (by simp [Instr.wellFormed]) rfl, absurd rfl hop,
    ⟨.movNot ra b, rfl, rfl⟩, ⟨.andNot ra b, rfl, rfl⟩, ⟨.orNot ra b, rfl, rfl⟩, ⟨.xorNot ra b, rfl, rfl⟩,
    ⟨.addSnc ra b, rfl, rfl⟩, ⟨.subSnb ra b, rfl, rfl⟩, ⟨.rsubSnb ra b, rfl, rfl⟩, absurd rfl hop]

/-! ## Major opcode 0111 -/

theorem isEncoding_shift (x : BitVec 12) : IsEncoding (packTwelve 7#4 x) := by
  obtain ⟨op, y, rfl⟩ := exists_append (m := 3) (n := 9) x
  obtain ⟨n, ra, rfl⟩ := exists_append (m := 5) (n := 4) y
  rw [packTwelve_five]
  have ext {op : BitVec 7} (i j : RegNo → Instr)
      (hi : ∀ rb, (i rb).wellFormed = true ∧ encode (i rb) = packPair (op ++ 0#1) rb ra)
      (hj : ∀ rb, (j rb).wellFormed = true ∧ encode (j rb) = packPair (op ++ 1#1) rb ra) : IsEncoding (packFive op n ra) := by
    obtain ⟨b, rb, rfl⟩ := exists_append (m := 1) (n := 4) n
    rw [packFive_append]
    obtain rfl | rfl := BitVec.eq_zero_or_eq_one b
    exacts [⟨i rb, hi rb⟩, ⟨j rb, hj rb⟩]
  obtain rfl | rfl | rfl | rfl | rfl | rfl | rfl | rfl := three_bits op
  exacts [⟨.lsr ra n, rfl, rfl⟩, ⟨.lsl ra n, rfl, rfl⟩, ⟨.asr ra n, rfl, rfl⟩, ⟨.flip ra n, rfl, rfl⟩,
    ⟨.ror ra n, rfl, rfl⟩,
    if h : n = 1#5 then ⟨.rolOne ra, rfl, h ▸ rfl⟩ else ⟨.rol ra n, by simpa [Instr.wellFormed] using h, rfl⟩,
    ext (.extUw ra) (.extSw ra) (fun _ => ⟨rfl, rfl⟩) (fun _ => ⟨rfl, rfl⟩),
    ext (.extUb ra) (.extSb ra) (fun _ => ⟨rfl, rfl⟩) (fun _ => ⟨rfl, rfl⟩)]

/-! ## Major opcodes 1000 and 1001 -/

/-- MODE stands for an addressing mode, or for the base of the stack offset mode (R96, R184). -/
theorem exists_mode (m : BitVec 1) : ∃ mode base, encodeMode mode = m ∧ encodeBase base = m := by
  obtain rfl | rfl := BitVec.eq_zero_or_eq_one m
  exacts [⟨.plain, .fp, rfl, rfl⟩, ⟨.imm, .sp, rfl, rfl⟩]

theorem isEncoding_load (x : BitVec 12) : IsEncoding (packTwelve 8#4 x) := by
  obtain ⟨m, y, rfl⟩ := exists_append (m := 1) (n := 11) x
  obtain ⟨z, y, rfl⟩ := exists_append (m := 3) (n := 8) y
  obtain ⟨rb, ra, rfl⟩ := exists_append (m := 4) (n := 4) y
  obtain ⟨mode, base, hm, hb⟩ := exists_mode m
  change IsEncoding (packMem 8#4 m z rb ra)
  have word (i : Instr) {e : BitVec 1} (he : e = m) (hw : i.wellFormed = true) (hi : encode i = packMem 8#4 e z rb ra) :
      IsEncoding (packMem 8#4 m z rb ra) := ⟨i, hw, he ▸ hi⟩
  obtain rfl | rfl | rfl | rfl | rfl | rfl | rfl | rfl := three_bits z
  exacts [
    if h : ra = 15#4 then word (.ldqRs (.stack base rb)) hb rfl (by rw [h]; rfl)
      else word (.ldqStack ra base rb) hb (by simpa [Instr.wellFormed] using h) rfl,
    ⟨.undefLdQuadSign m 0#1 ra rb, rfl, rfl⟩,
    if h : ra = 15#4 then word (.ldqRs (.normal mode rb)) hm rfl (by rw [h]; rfl)
      else word (.ldq ra mode rb) hm (by simpa [Instr.wellFormed] using h) rfl,
    ⟨.undefLdQuadSign m 1#1 ra rb, rfl, rfl⟩, word (.lduw ra mode rb) hm rfl rfl, word (.ldsw ra mode rb) hm rfl rfl,
    word (.ldub ra mode rb) hm rfl rfl, word (.ldsb ra mode rb) hm rfl rfl]

theorem isEncoding_store (x : BitVec 12) : IsEncoding (packTwelve 9#4 x) := by
  obtain ⟨m, y, rfl⟩ := exists_append (m := 1) (n := 11) x
  obtain ⟨z, y, rfl⟩ := exists_append (m := 3) (n := 8) y
  obtain ⟨rb, ra, rfl⟩ := exists_append (m := 4) (n := 4) y
  obtain ⟨mode, base, hm, hb⟩ := exists_mode m
  change IsEncoding (packMem 9#4 m z rb ra)
  have word (i : Instr) {e : BitVec 1} (he : e = m) (hw : i.wellFormed = true) (hi : encode i = packMem 9#4 e z rb ra) :
      IsEncoding (packMem 9#4 m z rb ra) := ⟨i, hw, he ▸ hi⟩
  obtain rfl | rfl | rfl | rfl | rfl | rfl | rfl | rfl := three_bits z
  exacts [
    if h : ra = 15#4 then word (.stqRs (.stack base rb)) hb rfl (by rw [h]; rfl)
      else word (.stqStack ra base rb) hb (by simpa [Instr.wellFormed] using h) rfl,
    ⟨.undefLeaSize m ra rb, rfl, rfl⟩,
    if h : ra = 15#4 then word (.stqRs (.normal mode rb)) hm rfl (by rw [h]; rfl)
      else word (.stq ra mode rb) hm (by simpa [Instr.wellFormed] using h) rfl,
    word (.lea ra mode .s01 rb) hm rfl rfl, word (.stw ra mode rb) hm rfl rfl, word (.lea ra mode .s10 rb) hm rfl rfl,
    word (.stb ra mode rb) hm rfl rfl, word (.lea ra mode .s11 rb) hm rfl rfl]

/-! ## Major opcode 1100 -/

theorem isEncoding_coproc (x : BitVec 12) : IsEncoding (packTwelve 12#4 x) :=
  if di : x = 0x704#12 then ⟨.di, rfl, di ▸ rfl⟩
  else if ei : x = 0xF04#12 then ⟨.ei, rfl, ei ▸ rfl⟩
  else ⟨.undefCoproc x, by simp [Instr.wellFormed, di, ei], rfl⟩

/-! ## Major opcode 1101 -/

/-- Layout K-u with the condition true, bit 11 = 0 (R99). -/
theorem isEncoding_skipUnary (sub ra : BitVec 4) : IsEncoding (packPair 0b11010101#8 sub ra) := by
  obtain ⟨top, ccc, rfl⟩ := exists_append (m := 1) (n := 3) sub
  obtain rfl | rfl := BitVec.eq_zero_or_eq_one top
  case inr => exact ⟨.skipCpt ccc ra, rfl, rfl⟩
  obtain rfl | rfl | rfl | rfl | rfl | rfl | rfl | rfl := three_bits ccc
  exacts [⟨.skipZ ra, rfl, rfl⟩, ⟨.skipAwz ra, rfl, rfl⟩, ⟨.skipAbz ra, rfl, rfl⟩, ⟨.undefScc 0#1 ra, rfl, rfl⟩,
    ⟨.skipLez ra, rfl, rfl⟩, ⟨.skipAwm ra, rfl, rfl⟩, ⟨.skipAbm ra, rfl, rfl⟩, ⟨.skipFs ra, rfl, rfl⟩]

/-- Layout K-u with the condition false, bit 11 = 1 (R99). -/
theorem isEncoding_skipUnary_not (sub ra : BitVec 4) : IsEncoding (packPair 0b11011101#8 sub ra) := by
  obtain ⟨top, ccc, rfl⟩ := exists_append (m := 1) (n := 3) sub
  obtain rfl | rfl := BitVec.eq_zero_or_eq_one top
  case inr => exact ⟨.skipCpf ccc ra, rfl, rfl⟩
  obtain rfl | rfl | rfl | rfl | rfl | rfl | rfl | rfl := three_bits ccc
  exacts [⟨.skipNz ra, rfl, rfl⟩, ⟨.skipNwz ra, rfl, rfl⟩, ⟨.skipNbz ra, rfl, rfl⟩, ⟨.undefScc 1#1 ra, rfl, rfl⟩,
    ⟨.skipGtz ra, rfl, rfl⟩, ⟨.skipNwm ra, rfl, rfl⟩, ⟨.skipNbm ra, rfl, rfl⟩, ⟨.skipFc ra, rfl, rfl⟩]

theorem isEncoding_skipEq (rb ra : RegNo) : IsEncoding (packPair 0b11010100#8 rb ra) := by
  by_cases h : ra = 0#4 ∧ rb = 0#4
  · obtain ⟨rfl, rfl⟩ := h
    exact ⟨.skipA, rfl, rfl⟩
  · exact ⟨.skipEq ra rb, by simpa [Instr.wellFormed] using not_and_or.mp h, rfl⟩

theorem isEncoding_skipNe (rb ra : RegNo) : IsEncoding (packPair 0b11011100#8 rb ra) := by
  by_cases h : ra = 0#4 ∧ rb = 0#4
  · obtain ⟨rfl, rfl⟩ := h
    exact ⟨.skipN, rfl, rfl⟩
  · exact ⟨.skipNe ra rb, by simpa [Instr.wellFormed] using not_and_or.mp h, rfl⟩

/-- Layout K-b with the bit set, its number reaching over the last opcode bit `b` and bits 7:4 (R99). -/
theorem isEncoding_skipBs (b : BitVec 1) (rb ra : BitVec 4) : IsEncoding (packPair (0b1101011#7 ++ b) rb ra) := by
  rw [← packFive_append]
  exact if h : b ++ rb = 31#5 then ⟨.skipMi ra, rfl, h ▸ rfl⟩
    else ⟨.skipBs ra (b ++ rb), by simpa [Instr.wellFormed] using h, rfl⟩

/-- Layout K-b with the bit clear. -/
theorem isEncoding_skipBc (b : BitVec 1) (rb ra : BitVec 4) : IsEncoding (packPair (0b1101111#7 ++ b) rb ra) := by
  rw [← packFive_append]
  exact if h : b ++ rb = 31#5 then ⟨.skipPl ra, rfl, h ▸ rfl⟩
    else ⟨.skipBc ra (b ++ rb), by simpa [Instr.wellFormed] using h, rfl⟩

theorem isEncoding_skip (x : BitVec 12) : IsEncoding (packTwelve 13#4 x) := by
  obtain ⟨cond, y, rfl⟩ := exists_append (m := 4) (n := 8) x
  obtain ⟨rb, ra, rfl⟩ := exists_append (m := 4) (n := 4) y
  rw [packTwelve_pair]
  obtain rfl | rfl | rfl | rfl | rfl | rfl | rfl | rfl | rfl | rfl | rfl | rfl | rfl | rfl | rfl | rfl := four_bits cond
  exacts [⟨.skipLo ra rb, rfl, rfl⟩, ⟨.skipLs ra rb, rfl, rfl⟩, ⟨.skipLt ra rb, rfl, rfl⟩, ⟨.skipLe ra rb, rfl, rfl⟩,
    isEncoding_skipEq rb ra, isEncoding_skipUnary rb ra, isEncoding_skipBs 0#1 rb ra, isEncoding_skipBs 1#1 rb ra,
    ⟨.skipHs ra rb, rfl, rfl⟩, ⟨.skipHi ra rb, rfl, rfl⟩, ⟨.skipGe ra rb, rfl, rfl⟩, ⟨.skipGt ra rb, rfl, rfl⟩,
    isEncoding_skipNe rb ra, isEncoding_skipUnary_not rb ra, isEncoding_skipBc 0#1 rb ra, isEncoding_skipBc 1#1 rb ra]

/-! ## Major opcodes 1110 and 1111 -/

theorem isEncoding_branch (x : BitVec 12) : IsEncoding (packTwelve 14#4 x) := by
  obtain ⟨op, i9, rfl⟩ := exists_append (m := 3) (n := 9) x
  rw [packTwelve_branch]
  obtain rfl | rfl | rfl | rfl | rfl | rfl | rfl | rfl := three_bits op
  exacts [⟨.braD i9, rfl, rfl⟩, ⟨.bra i9, rfl, rfl⟩, ⟨.bsrD i9, rfl, rfl⟩, ⟨.bsr i9, rfl, rfl⟩,
    ⟨.lbraD i9, rfl, rfl⟩,
    ⟨.lbra i9, rfl, rfl⟩, ⟨.lbsrD i9, rfl, rfl⟩, ⟨.lbsr i9, rfl, rfl⟩]

/-- Format J by its sub-code, bits 10:9 being PSHPC or the RTI select, and DNULL (R102). -/
theorem isEncoding_jump (b : BitVec 2) (sub ra : BitVec 4) :
    IsEncoding (packPair (0b11111#5 ++ (b ++ 0#1)) sub ra) := by
  by_cases h0 : sub = 0#4
  · subst h0
    obtain rfl | rfl | rfl | rfl := two_bits b
    exacts [⟨.jmpD ra, rfl, rfl⟩, ⟨.jmp ra, rfl, rfl⟩, ⟨.jsrD ra, rfl, rfl⟩, ⟨.jsr ra, rfl, rfl⟩]
  by_cases h1 : sub = 1#4
  · subst h1
    obtain rfl | rfl | rfl | rfl := two_bits b
    exacts [⟨.rbraD ra, rfl, rfl⟩, ⟨.rbra ra, rfl, rfl⟩, ⟨.rbsrD ra, rfl, rfl⟩, ⟨.rbsr ra, rfl, rfl⟩]
  by_cases h2 : sub = 2#4 ∧ ra = 0#4
  · obtain ⟨rfl, rfl⟩ := h2
    obtain rfl | rfl | rfl | rfl := two_bits b
    exacts [⟨.rtsD, rfl, rfl⟩, ⟨.rts, rfl, rfl⟩, ⟨.rtiD, rfl, rfl⟩, ⟨.rti, rfl, rfl⟩]
  · exact ⟨.undefJ b sub ra, by simpa [Instr.wellFormed, h0, h1] using not_and_or.mp h2, rfl⟩

/-- SPAM by TRUNC, bits 10:8 (R101). -/
theorem isEncoding_spam (trunc : BitVec 3) (mask : BitVec 8) : IsEncoding (packEight (0b11110#5 ++ trunc) mask) :=
  if h : trunc = 7#3 then ⟨.spamAnd mask, rfl, h ▸ rfl⟩
  else ⟨.spamXorn trunc mask, by simpa [Instr.wellFormed] using h, rfl⟩

theorem isEncoding_control (x : BitVec 12) : IsEncoding (packTwelve 15#4 x) := by
  obtain ⟨op, y, rfl⟩ := exists_append (m := 4) (n := 8) x
  rw [packTwelve_eight]
  have jump (b : BitVec 2) : IsEncoding (packEight (0b11111#5 ++ (b ++ 0#1)) y) := by
    obtain ⟨sub, ra, rfl⟩ := exists_append (m := 4) (n := 4) y
    exact isEncoding_jump b sub ra
  obtain rfl | rfl | rfl | rfl | rfl | rfl | rfl | rfl | rfl | rfl | rfl | rfl | rfl | rfl | rfl | rfl := four_bits op
  exacts [isEncoding_spam 0#3 y, isEncoding_spam 1#3 y, isEncoding_spam 2#3 y, isEncoding_spam 3#3 y,
    isEncoding_spam 4#3 y, isEncoding_spam 5#3 y, isEncoding_spam 6#3 y, isEncoding_spam 7#3 y,
    jump 0#2, ⟨.undefBit10 0#1 y, rfl, rfl⟩, jump 1#2, ⟨.undefBit10 1#1 y, rfl, rfl⟩,
    jump 2#2, ⟨.trapD y, rfl, rfl⟩, jump 3#2, ⟨.trap y, rfl, rfl⟩]

/-! ## All words -/

theorem isEncoding (w : Wyde) : IsEncoding w := by
  obtain ⟨op, x, rfl⟩ := exists_append (m := 4) (n := 12) w
  have alu (op : BitVec 3) (h : op ≠ 7#3) : IsEncoding (packTwelve (0#1 ++ op) x) := isEncoding_alu h x
  obtain rfl | rfl | rfl | rfl | rfl | rfl | rfl | rfl | rfl | rfl | rfl | rfl | rfl | rfl | rfl | rfl := four_bits op
  exacts [alu 0#3 (by decide), alu 1#3 (by decide), alu 2#3 (by decide), alu 3#3 (by decide), alu 4#3 (by decide),
    alu 5#3 (by decide), alu 6#3 (by decide), isEncoding_shift x, isEncoding_load x, isEncoding_store x,
    ⟨.ldi x, rfl, rfl⟩, ⟨.imm12 x, rfl, rfl⟩, isEncoding_coproc x, isEncoding_skip x, isEncoding_branch x,
    isEncoding_control x]

/-- Settles O2: every word is the word of some well-formed instruction, and that instruction is what the decoder finds in
it. -/
theorem encodeOfDecode : Obligations.EncodeOfDecode := by
  intro w
  obtain ⟨i, hw, rfl⟩ := isEncoding w
  rw [decodeOfEncode i hw]
  exact ⟨hw, rfl⟩

end Sys2Proof
end

section
/-! The instructions by the shape of their meaning. Every arm of `exec` is one call of a shape of Machine/Ops.lean,
Logical.lean, Arithmetic.lean, Shift.lean, MemoryGroup.lean, Skip.lean or Transfer.lean; `shapeOf` says which, with its
operands, and `exec_eq_run` that it is so. What holds of all 111 instructions is proved once for each shape. -/

namespace Sys2Proof.Machine

/-! ## Shapes -/

/-- How the value of a register write is made. -/
inductive Source where
  | move (b : Opb) (f : Word → Word)
  | alu (b : Opb) (f : Word → Word → Word)
  | unary (f : Word → Word)
  | shift (n : BitVec 5) (y1aHas : BitVec 5 → Bool) (f : Word → BitVec 5 → Word)
  | ext (rb : RegNo) (f : Word → Word)
  | address (mode : AddrMode) (rb : RegNo)
  | const (v : Word)

/-- What a SKIP.cc on registers tests. -/
inductive Cond where
  | pair (ra rb : RegNo) (cond : Word → Word → Bool)
  | unary (ra : RegNo) (cond : Word → Bool)

/-- The address of a quad access: one of the addressing forms (R191, R197), or LDI's (R202). -/
inductive QuadPlace where
  | operand (a : QuadAddr)
  | pcRelative (ea12 : BitVec 12)

/-- Where a jump or call goes. -/
inductive Target where
  | short (i9 : BitVec 9)
  | long (i9 : BitVec 9)
  | absolute (ra : RegNo)
  | relative (ra : RegNo)

/-- The shape of an instruction's meaning. -/
inductive Shape where
  | write (ra : RegNo) (v : Source)
  | writeTest (ra : RegNo) (b : Opb) (f : Word → Word → Word) (carry : Word → Word → Bool)
  | test (c : Cond)
  | flag (n : BitVec 4) (cond : Bool → Bool)
  | spam (vector : Bool → BitVec 8)
  | loadQuad (ra : RegNo) (a : QuadPlace)
  | loadPart (n : Size) (ra : RegNo) (mode : AddrMode) (rb : RegNo) (ext : Word → Word)
  | storeQuad (ra : RegNo) (a : QuadAddr)
  | storePart (n : Size) (ra : RegNo) (mode : AddrMode) (rb : RegNo)
  | interrupts (b : Bool)
  | jump (dnull : Bool) (target : Target)
  | call (dnull : Bool) (target : Target)
  | ret (dnull : Bool)
  | faults (e : Fault)
  | refuses (e : Refusal)

/-! ## The shape of each instruction -/

/-- The shape of an instruction's meaning, by its row of the opcode table. LD and ST of `rs` are those of r15. -/
def shapeOf : Instr → Shape
  | .nop => .write 0#4 (.move (.reg 0#4) fun y => y)
  | .clr ra => .write ra (.move (.simm 0#5) fun y => y)
  | .not ra => .write ra (.alu (.simm 31#5) fun x y => x ^^^ y)
  | .inc ra => .write ra (.alu (.simm 1#5) fun x y => x + y)
  | .dec ra => .write ra (.alu (.simm 1#5) fun x y => x - y)
  | .neg ra => .write ra (.alu (.simm 0#5) fun x y => y - x)
  | .rolOne ra => .write ra (.shift 1#5 y1aCountOneTwo shiftRol)
  | .lsr ra n => .write ra (.shift n y1aCountOne shiftLsr)
  | .lsl ra n => .write ra (.shift n y1aCountOneTwo shiftLsl)
  | .asr ra n => .write ra (.shift n y1aCountOne shiftAsr)
  | .flip ra n => .write ra (.unary fun x => flipBits x n)
  | .ror ra n => .write ra (.shift n y1aCountOne shiftRor)
  | .rol ra n => .write ra (.shift n y1aCountOneTwo shiftRol)
  | .extUw ra rb => .write ra (.ext rb zextWyde)
  | .extSw ra rb => .write ra (.ext rb sextWyde)
  | .extUb ra rb => .write ra (.ext rb zextByte)
  | .extSb ra rb => .write ra (.ext rb sextByte)
  | .undefRegOpb .. => .refuses .registerOpbBit8
  | .mov ra b => .write ra (.move b fun y => y)
  | .movNot ra b => .write ra (.move b fun y => ~~~y)
  | .and ra b => .write ra (.alu b fun x y => x &&& y)
  | .andNot ra b => .write ra (.alu b fun x y => x &&& ~~~y)
  | .or ra b => .write ra (.alu b fun x y => x ||| y)
  | .orNot ra b => .write ra (.alu b fun x y => x ||| ~~~y)
  | .xor ra b => .write ra (.alu b fun x y => x ^^^ y)
  | .xorNot ra b => .write ra (.alu b fun x y => x ^^^ ~~~y)
  | .add ra b => .write ra (.alu b fun x y => x + y)
  | .addSnc ra b => .writeTest ra b (fun x y => x + y) carryOut
  | .sub ra b => .write ra (.alu b fun x y => x - y)
  | .subSnb ra b => .writeTest ra b (fun x y => x - y) borrowOut
  | .rsub ra b => .write ra (.alu b fun x y => y - x)
  | .rsubSnb ra b => .writeTest ra b (fun x y => y - x) fun x y => borrowOut y x
  | .ldqRs a => .loadQuad 15#4 (.operand a)
  | .ldqStack ra base off => .loadQuad ra (.operand (.stack base off))
  | .undefLdQuadSign .. => .refuses .ldQuadSigned
  | .ldq ra mode rb => .loadQuad ra (.operand (.normal mode rb))
  | .lduw ra mode rb => .loadPart .wyde ra mode rb zextWyde
  | .ldsw ra mode rb => .loadPart .wyde ra mode rb sextWyde
  | .ldub ra mode rb => .loadPart .byte ra mode rb zextByte
  | .ldsb ra mode rb => .loadPart .byte ra mode rb sextByte
  | .stqRs a => .storeQuad 15#4 a
  | .stqStack ra base off => .storeQuad ra (.stack base off)
  | .stq ra mode rb => .storeQuad ra (.normal mode rb)
  | .stw ra mode rb => .storePart .wyde ra mode rb
  | .stb ra mode rb => .storePart .byte ra mode rb
  | .undefLeaSize .. => .refuses .leaStackForm
  | .lea ra mode _ rb => .write ra (.address mode rb)
  | .ldi ea12 => .loadQuad 14#4 (.pcRelative ea12)
  | .imm12 i12 => .write 14#4 (.const (i12.signExtend 32))
  | .di => .interrupts false
  | .ei => .interrupts true
  | .undefCoproc _ => .refuses .coprocessorWord
  | .skipA => .test (.pair 0#4 0#4 condEq)
  | .skipN => .test (.pair 0#4 0#4 fun x y => !condEq x y)
  | .skipLo ra rb => .test (.pair ra rb fun x y => condLo x y)
  | .skipHs ra rb => .test (.pair ra rb fun x y => !condLo x y)
  | .skipLs ra rb => .test (.pair ra rb fun x y => condLs x y)
  | .skipHi ra rb => .test (.pair ra rb fun x y => condLo y x)
  | .skipLt ra rb => .test (.pair ra rb fun x y => condLt x y)
  | .skipGe ra rb => .test (.pair ra rb fun x y => !condLt x y)
  | .skipLe ra rb => .test (.pair ra rb fun x y => condLe x y)
  | .skipGt ra rb => .test (.pair ra rb fun x y => condLt y x)
  | .skipEq ra rb => .test (.pair ra rb fun x y => condEq x y)
  | .skipNe ra rb => .test (.pair ra rb fun x y => !condEq x y)
  | .skipZ ra => .test (.unary ra fun x => condZ x)
  | .skipNz ra => .test (.unary ra fun x => !condZ x)
  | .skipAwz ra => .test (.unary ra fun x => condAwz x)
  | .skipNwz ra => .test (.unary ra fun x => !condAwz x)
  | .skipAbz ra => .test (.unary ra fun x => condAbz x)
  | .skipNbz ra => .test (.unary ra fun x => !condAbz x)
  | .skipLez ra => .test (.unary ra fun x => condLez x)
  | .skipGtz ra => .test (.unary ra fun x => !condLez x)
  | .skipAwm ra => .test (.unary ra fun x => condAwm x)
  | .skipNwm ra => .test (.unary ra fun x => !condAwm x)
  | .skipAbm ra => .test (.unary ra fun x => condAbm x)
  | .skipNbm ra => .test (.unary ra fun x => !condAbm x)
  | .undefScc .. => .faults .undefinedEncoding
  | .skipFs n => .flag n fun b => b
  | .skipFc n => .flag n fun b => !b
  | .skipCpt .. | .skipCpf .. => .refuses .coprocessorSkip
  | .skipMi ra => .test (.unary ra fun x => condBit x 31#5)
  | .skipPl ra => .test (.unary ra fun x => !condBit x 31#5)
  | .skipBs ra b => .test (.unary ra fun x => condBit x b)
  | .skipBc ra b => .test (.unary ra fun x => !condBit x b)
  | .braD i9 => .jump false (.short i9)
  | .bra i9 => .jump true (.short i9)
  | .bsrD i9 => .call false (.short i9)
  | .bsr i9 => .call true (.short i9)
  | .lbraD i9 => .jump false (.long i9)
  | .lbra i9 => .jump true (.long i9)
  | .lbsrD i9 => .call false (.long i9)
  | .lbsr i9 => .call true (.long i9)
  | .spamAnd mask => .spam fun test => spamAndVector test mask
  | .spamXorn trunc mask => .spam fun test => spamXornVector test trunc mask
  | .jmpD ra => .jump false (.absolute ra)
  | .jmp ra => .jump true (.absolute ra)
  | .jsrD ra => .call false (.absolute ra)
  | .jsr ra => .call true (.absolute ra)
  | .rbraD ra => .jump false (.relative ra)
  | .rbra ra => .jump true (.relative ra)
  | .rbsrD ra => .call false (.relative ra)
  | .rbsr ra => .call true (.relative ra)
  | .rtsD => .ret false
  | .rts => .ret true
  | .rtiD | .rti => .refuses .rtiUndefined
  | .trapD tr | .trap tr => .refuses (.trapUndefined tr)
  | .undefBit10 .. | .undefJ .. => .faults .undefinedEncoding

/-! ## The meaning of a shape -/

/-- A register write by its source. -/
def Source.run (ra : RegNo) (s : State) : Source → Res State
  | .move b f => moveSlot s ra b f
  | .alu b f => aluSlot s ra b f
  | .unary f => unarySlot s ra f
  | .shift n y1aHas f => shiftSlot s ra n y1aHas f
  | .ext rb f => extSlot s ra rb f
  | .address mode rb => plainSlot s fun t => writeReg t ra (effAddr t mode rb)
  | .const v => plainSlot s fun t => writeReg t ra v

/-- A SKIP.cc on registers. -/
def Cond.run (s : State) : Cond → Res State
  | .pair ra rb cond => skipPair s ra rb cond
  | .unary ra cond => skipUnary s ra cond

/-- The address of a quad access. -/
def QuadPlace.addr (s : State) : QuadPlace → Word
  | .operand a => quadAddr s a
  | .pcRelative ea12 => ldiAddr s ea12

/-- The target of a jump or call. -/
def Target.value (s : State) : Target → Res Word
  | .short i9 => .next (shortTarget s i9)
  | .long i9 => .next (longTarget s i9)
  | .absolute ra => absoluteTarget ra s
  | .relative ra => relativeTarget ra s

/-- The meaning of a shape. -/
def Shape.run (s : State) : Shape → Res State
  | .write ra v => v.run ra s
  | .writeTest ra b f carry => cskipSlot s ra b f carry
  | .test c => c.run s
  | .flag n cond => skipFlag s n cond
  | .spam vector => spamSlot s vector
  | .loadQuad ra a => Machine.loadQuad s ra fun t => a.addr t
  | .loadPart n ra mode rb ext => Machine.loadPart s n ra mode rb ext
  | .storeQuad ra a => Machine.storeQuad s ra fun t => quadAddr t a
  | .storePart n ra mode rb => Machine.storePart s n ra mode rb
  | .interrupts b => plainSlot s fun t => .next (t.setIe b)
  | .jump dnull target => jumpSlot s dnull fun t => target.value t
  | .call dnull target => callSlot s dnull fun t => target.value t
  | .ret dnull => transferSlot s dnull rsPop
  | .faults e => .fault e
  | .refuses e => .refused e

/-- Every instruction is executed as its shape says. -/
theorem exec_eq_run (i : Instr) (s : State) : exec i s = (shapeOf i).run s := by
  cases i <;> rfl

end Sys2Proof.Machine
end

section
/-! What Safety.lean says of an instruction, read from its shape. -/

namespace Sys2Proof.Machine

/-! ## Class, destination, operands and return stack of a shape -/

def Shape.class : Shape → SlotClass
  | .write .. | .loadQuad .. | .loadPart .. | .storeQuad .. | .storePart .. | .interrupts _ => .plain
  | .writeTest .. | .test _ | .flag .. => .skip
  | .spam _ => .spam
  | .jump .. | .call .. | .ret _ => .transfer
  | .faults _ | .refuses _ => .stop

def Shape.dest : Shape → Option RegNo
  | .write ra _ | .writeTest ra .. | .loadQuad ra _ | .loadPart _ ra .. => some ra
  | _ => none

def Shape.loads (s : State) : Shape → Option (Size × Word)
  | .loadQuad _ a => some (.quad, a.addr s)
  | .loadPart n _ mode rb _ => some (n, effAddr s mode rb)
  | _ => none

def Shape.stores (s : State) : Shape → Option (Size × Word)
  | .storeQuad _ a => some (.quad, quadAddr s a)
  | .storePart n _ mode rb => some (n, effAddr s mode rb)
  | _ => none

def Shape.pushes : Shape → Bool
  | .call .. => true
  | .loadQuad ra _ => ra == 15#4
  | _ => false

def Shape.pops : Shape → Bool
  | .ret _ => true
  | .storeQuad ra _ => ra == 15#4
  | _ => false

def Shape.accesses : Shape → Bool
  | .loadQuad .. | .loadPart .. | .storeQuad .. | .storePart .. => true
  | _ => false

theorem classOf_eq (i : Instr) : classOf i = (shapeOf i).class := by
  cases i <;> rfl

theorem loadOf_eq (s : State) (i : Instr) : loadOf s i = (shapeOf i).loads s := by
  cases i <;> rfl

theorem storeOf_eq (s : State) (i : Instr) : storeOf s i = (shapeOf i).stores s := by
  cases i <;> rfl

theorem pushesStack_eq (i : Instr) : pushesStack i = (shapeOf i).pushes := by
  cases i <;> rfl

theorem popsStack_eq (i : Instr) : popsStack i = (shapeOf i).pops := by
  cases i <;> rfl

theorem accessesData_eq (i : Instr) : accessesData i = (shapeOf i).accesses := by
  cases i <;> rfl

/-- LD `rs` has no destination register; its shape names r15, which is none (R24). -/
theorem destOf_eq {i : Instr} : destOf i = (shapeOf i).dest ∨ (shapeOf i).dest = some 15#4 := by
  cases i with
  | ldqRs a => exact .inr rfl
  | _ => exact .inl rfl

theorem eq_di_or_ei_of_interrupts {i : Instr} {b : Bool} (h : shapeOf i = .interrupts b) : i = .di ∨ i = .ei := by
  cases i <;> simp_all [shapeOf]

theorem eq_skipFs_or_skipFc_of_flag {i : Instr} {n : BitVec 4} {cond : Bool → Bool} (h : shapeOf i = .flag n cond) :
    i = .skipFs n ∨ i = .skipFc n := by
  cases i <;> simp_all [shapeOf]

end Sys2Proof.Machine
end

section
/-! When a shape completes: the next states it can answer, said once for each shape. -/

namespace Sys2Proof.Machine

/-! ## Next states -/

/-- The state after an executed flag skip. -/
def State.afterFlag (s : State) (test : Bool) : State := (s.enter.tookFlag.setSkip test .skip).setPc s.nextPc

/-- The state after an executed SPAM. -/
def State.afterSpam (s : State) (vector : BitVec 8) : State := (s.enter.setSv vector).setPc s.nextPc

/-- The state after an executed load into a register, `u` being the state after its read. -/
def State.afterLoad (s u : State) (ra : RegNo) (v : Word) : State := (u.setReg ra v).setPc s.nextPc

/-- A read changes device fields only, the record by at most one entry at its end. -/
theorem memRead_frame {n : Size} {a : Word} {s : State} {p : Word × State} (h : memRead n a s = .next p) :
    ∃ din count l, l.length ≤ 1 ∧ p.2 = { s with devIn := din, devCount := count, devLog := s.devLog ++ l } := by
  obtain ⟨-, ⟨-, rfl⟩ | ⟨-, rfl⟩⟩ := memRead_eq_next.mp h
  · exact ⟨s.devIn, s.devCount, [], by simp, by simp⟩
  · exact ⟨_, _, [_], Nat.le_refl 1, rfl⟩

/-- A write changes memory, the written addresses and the record only, the record by at most one entry at its end. -/
theorem memWrite_frame {n : Size} {a v : Word} {s u : State} (h : memWrite n a v s = .next u) :
    ∃ m w l, l.length ≤ 1 ∧ u = { s with mem := m, written := w, devLog := s.devLog ++ l } := by
  obtain ⟨-, ⟨-, rfl⟩ | ⟨-, rfl⟩⟩ := memWrite_eq_next.mp h
  · exact ⟨_, _, [], by simp, (by rw [List.append_nil]; rfl : _ = _)⟩
  · exact ⟨_, _, [_], Nat.le_refl 1, rfl⟩

/-- A jump's next state as one update: only where control goes depends on DNULL (R271). -/
theorem State.afterJump_eq (s : State) (dnull : Bool) (a : Word) :
    s.afterJump dnull a =
      { s.enter with
        pc := if dnull then a else s.pc + 2#32
        delayTarget := if dnull then none else some a } := by
  cases dnull <;> rfl

/-- A slot whose effect is to write a register completes where the register is one. -/
theorem plainSlot_writeReg_eq_next {s t : State} {ra : RegNo} {value : State → Word} :
    (plainSlot s fun t => writeReg t ra (value t)) = .next t ↔ ra ≠ 15#4 ∧ t = s.afterWrite ra (value s.enter) := by
  simp only [plainSlot_eq_next, writeReg_eq_next]
  constructor
  · rintro ⟨u, ⟨hra, rfl⟩, rfl⟩
    exact ⟨hra, rfl⟩
  · rintro ⟨hra, rfl⟩
    exact ⟨_, ⟨hra, rfl⟩, rfl⟩

/-- A transfer with a return stack left by a push or pop goes where a jump goes. -/
theorem transferTo_enter_setRs {s t : State} {l : List Word} {dnull : Bool} {a : Word} :
    transferTo (s.enter.setRs l) dnull a = .next t ↔ a.getLsbD 0 = false ∧ t = (s.afterJump dnull a).setRs l := by
  rw [transferTo_eq_next]
  cases dnull <;> rfl

/-! ## Completion -/

/-- A shape executed in a state can answer a state: what is written, read or taken is named where a rule of the machine
needs it. -/
inductive Completes (s : State) : Shape → State → Prop where
  | write {ra : RegNo} {src : Source} (hra : ra ≠ 15#4) (v : Word) : Completes s (.write ra src) (s.afterWrite ra v)
  | writeTest {ra : RegNo} {b : Opb} {f : Word → Word → Word} {carry : Word → Word → Bool} (hs : s.unhindered)
      (hra : ra ≠ 15#4) (v : Word) (test : Bool) : Completes s (.writeTest ra b f carry) (s.afterWriteTest ra v test)
  | test {c : Cond} (hs : s.unhindered) (test : Bool) : Completes s (.test c) (s.afterTest test)
  | flag {n : BitVec 4} {cond : Bool → Bool} (hs : s.unhindered) (test : Bool) : Completes s (.flag n cond) (s.afterFlag test)
  | spam {vector : Bool → BitVec 8} (hs : s.unhindered) (v : BitVec 8) : Completes s (.spam vector) (s.afterSpam v)
  | loadQuad {ra : RegNo} {a : QuadPlace} {p : Word × State} (hra : ra ≠ 15#4)
      (hp : memRead .quad (a.addr s) s.enter = .next p) : Completes s (.loadQuad ra a) (s.afterLoad p.2 ra p.1)
  | push {a : QuadPlace} {p : Word × State} (hp : memRead .quad (a.addr s) s.enter = .next p)
      (hfits : s.rs.length < s.plat.rsDepth) :
      Completes s (.loadQuad 15#4 a) ((p.2.setRs (p.1 :: s.rs)).setPc s.nextPc)
  | loadPart {n : Size} {ra rb : RegNo} {mode : AddrMode} {ext : Word → Word} {p : Word × State} (hra : ra ≠ 15#4)
      (hp : memRead n (effAddr s mode rb) s.enter = .next p) :
      Completes s (.loadPart n ra mode rb ext) (s.afterLoad p.2 ra (ext p.1))
  | storeQuad {ra : RegNo} {a : QuadAddr} {v : Word} {u : State} (hra : ra ≠ 15#4)
      (hu : memWrite .quad (quadAddr s a) v s.enter = .next u) : Completes s (.storeQuad ra a) (u.setPc s.nextPc)
  | pop {a : QuadAddr} {v : Word} {rest : List Word} {u : State} (hrs : s.rs = v :: rest)
      (hu : memWrite .quad (quadAddr s a) v (s.enter.setRs rest) = .next u) :
      Completes s (.storeQuad 15#4 a) (u.setPc s.nextPc)
  | storePart {n : Size} {ra rb : RegNo} {mode : AddrMode} {v : Word} {u : State}
      (hu : memWrite n (effAddr s mode rb) v s.enter = .next u) : Completes s (.storePart n ra mode rb) (u.setPc s.nextPc)
  | interrupts (b : Bool) : Completes s (.interrupts b) ((s.enter.setIe b).setPc s.nextPc)
  | jump {dnull : Bool} {target : Target} {a : Word} (hs : s.unhindered) (heven : a.getLsbD 0 = false) :
      Completes s (.jump dnull target) (s.afterJump dnull a)
  | call {dnull : Bool} {target : Target} {a : Word} (hs : s.unhindered) (hfits : s.rs.length < s.plat.rsDepth)
      (heven : a.getLsbD 0 = false) :
      Completes s (.call dnull target) ((s.afterJump dnull a).setRs (returnAddress s dnull :: s.rs))
  | ret {dnull : Bool} {a : Word} {rest : List Word} (hs : s.unhindered) (hrs : s.rs = a :: rest)
      (heven : a.getLsbD 0 = false) : Completes s (.ret dnull) ((s.afterJump dnull a).setRs rest)

theorem Source.completes {ra : RegNo} {src : Source} {s t : State} (h : src.run ra s = .next t) :
    Completes s (.write ra src) t := by
  cases src with
  | move b f =>
    obtain ⟨hra, y, -, rfl⟩ := moveSlot_eq_next.mp h
    exact .write hra _
  | alu b f =>
    obtain ⟨hra, x, y, -, -, rfl⟩ := aluSlot_eq_next.mp h
    exact .write hra _
  | unary f =>
    obtain ⟨hra, x, -, rfl⟩ := unarySlot_eq_next.mp h
    exact .write hra _
  | shift n y1aHas f =>
    obtain ⟨-, hra, x, -, rfl⟩ := shiftSlot_eq_next.mp h
    exact .write hra _
  | ext rb f =>
    obtain ⟨hra, x, -, rfl⟩ := extSlot_eq_next.mp h
    exact .write hra _
  | address mode rb =>
    obtain ⟨hra, rfl⟩ := (plainSlot_writeReg_eq_next (value := fun t => effAddr t mode rb)).mp h
    exact .write hra _
  | const v =>
    obtain ⟨hra, rfl⟩ := (plainSlot_writeReg_eq_next (value := fun _ => v)).mp h
    exact .write hra _

theorem Cond.completes {c : Cond} {s t : State} (h : c.run s = .next t) : Completes s (.test c) t := by
  cases c with
  | pair ra rb cond =>
    obtain ⟨hs, x, y, -, -, rfl⟩ := skipPair_eq_next.mp h
    exact .test hs _
  | unary ra cond =>
    obtain ⟨hs, x, -, rfl⟩ := skipUnary_eq_next.mp h
    exact .test hs _

@[simp] theorem QuadPlace.addr_enter (a : QuadPlace) (s : State) : a.addr s.enter = a.addr s := by
  cases a <;> simp [QuadPlace.addr]

theorem Shape.completes {sh : Shape} {s t : State} (h : sh.run s = .next t) : Completes s sh t := by
  cases sh with
  | write ra src => exact Source.completes h
  | writeTest ra b f carry =>
    obtain ⟨hs, hra, x, y, -, -, rfl⟩ := cskipSlot_eq_next.mp h
    exact .writeTest hs hra _ _
  | test c => exact Cond.completes h
  | flag n cond =>
    obtain ⟨hs, rfl⟩ := skipFlag_eq_next.mp h
    exact .flag hs _
  | spam vector =>
    obtain ⟨hs, -, rfl⟩ := spamSlot_eq_next.mp h
    exact .spam hs _
  | loadQuad ra a =>
    by_cases hra : ra = 15#4
    · subst hra
      obtain ⟨-, p, hp, hfits, rfl⟩ := loadPush_eq_next.mp h
      rw [QuadPlace.addr_enter] at hp
      have same : p.2.rs = s.rs ∧ p.2.plat = s.plat := by
        obtain ⟨_, _, _, -, hp2⟩ := memRead_frame hp
        rw [hp2]
        exact ⟨rfl, rfl⟩
      rw [same.1, same.2] at hfits
      rw [same.1]
      exact .push hp hfits
    · obtain ⟨p, hp, rfl⟩ := (loadQuad_eq_next hra).mp h
      exact .loadQuad hra (by simpa using hp)
  | loadPart n ra mode rb ext =>
    obtain ⟨hra, p, hp, rfl⟩ := loadPart_eq_next.mp h
    exact .loadPart hra hp
  | storeQuad ra a =>
    by_cases hra : ra = 15#4
    · subst hra
      obtain ⟨-, v, rest, hrs, u, hu, rfl⟩ := storePop_eq_next.mp h
      exact .pop hrs (by simpa using hu)
    · obtain ⟨x, -, u, hu, rfl⟩ := (storeQuad_eq_next hra).mp h
      exact .storeQuad hra (by simpa using hu)
  | storePart n ra mode rb =>
    obtain ⟨-, x, -, u, hu, rfl⟩ := storePart_eq_next.mp h
    exact .storePart hu
  | interrupts b =>
    obtain ⟨u, hu, rfl⟩ := (plainSlot_eq_next (effect := fun t => .next (t.setIe b))).mp h
    cases hu
    exact .interrupts b
  | jump dnull target =>
    obtain ⟨hs, a, -, ht⟩ := jumpSlot_eq_next.mp h
    obtain ⟨heven, rfl⟩ := transferTo_eq_next.mp ht
    exact .jump hs heven
  | call dnull target =>
    obtain ⟨hs, hfits, a, -, ht⟩ := callSlot_eq_next.mp h
    obtain ⟨heven, rfl⟩ := transferTo_enter_setRs.mp ht
    exact .call hs hfits heven
  | ret dnull =>
    obtain ⟨hs, a, u, hu, ht⟩ := transferSlot_eq_next.mp h
    obtain ⟨hrs, rfl⟩ := rsPop_eq_next.mp hu
    obtain ⟨heven, rfl⟩ := transferTo_enter_setRs.mp ht
    exact .ret hs hrs heven
  | faults e => cases h
  | refuses e => cases h

/-- What an executed instruction leaves, by its shape. -/
theorem completes_of_exec {i : Instr} {s t : State} (h : exec i s = .next t) : Completes s (shapeOf i) t :=
  Shape.completes (exec_eq_run i s ▸ h)

end Sys2Proof.Machine
end

section
/-! What every executed instruction keeps and leaves (20_memory.md R66, 44_skip_spam.md R220, 45_control_transfer.md R271,
10_state.md R28): each rule is a case analysis over the ways in which a shape completes. -/

namespace Sys2Proof.Machine

/-! ## Sequencing -/

/-- What a class of instructions leaves in the sequencing state (R220, R222, R223, R271). -/
def seqOfClass (s t : State) : SlotClass → Prop
  | .plain => seqPlain s t
  | .skip => seqSkip s t
  | .spam => seqSpam s t
  | .transfer => seqTransfer t
  | .stop => False

theorem Completes.sequencing {s t : State} {sh : Shape} (h : Completes s sh t) : seqOfClass s t sh.class := by
  cases h with
  | write | interrupts => exact ⟨rfl, rfl, rfl, rfl, rfl⟩
  | loadQuad _ hp | loadPart _ hp | push hp =>
    obtain ⟨_, _, _, -, hu⟩ := memRead_frame hp
    rw [hu]
    exact ⟨rfl, rfl, rfl, rfl, rfl⟩
  | storeQuad _ hu | storePart hu | pop _ hu =>
    obtain ⟨_, _, _, -, rfl⟩ := memWrite_frame hu
    exact ⟨rfl, rfl, rfl, rfl, rfl⟩
  | writeTest hs => exact ⟨SkipKind.noConfusion, hs.2, rfl, State.nextPc_of_none hs.1⟩
  | test hs | flag hs => exact ⟨SkipKind.noConfusion, hs.2, rfl, State.nextPc_of_none hs.1⟩
  | spam hs => exact ⟨rfl, rfl, rfl, State.nextPc_of_none hs.1⟩
  | jump hs | call hs | ret hs =>
    rw [State.afterJump_eq]
    exact ⟨rfl, rfl, hs.2⟩

/-- Settles O11: the rule of `Completes.sequencing` for the instruction's shape. -/
theorem sequencingByClass : Obligations.SequencingByClass := by
  intro i s t h
  have rule := (completes_of_exec h).sequencing
  rw [← classOf_eq] at rule
  exact rule

/-! ## Registers -/

theorem Completes.reg? {s t : State} {sh : Shape} (h : Completes s sh t) {r : RegNo} (hr : sh.dest ≠ some r) :
    t.reg? r = s.reg? r := by
  have ne {ra : RegNo} (h : some ra ≠ some r) : r ≠ ra := fun e => h (congrArg some e.symm)
  cases h with
  | write => exact regsExcept_afterWrite _ _ _ r (ne hr)
  | writeTest => exact regsExcept_afterWriteTest _ _ _ _ r (ne hr)
  | loadQuad _ hp | loadPart _ hp =>
    obtain ⟨_, _, _, -, hu⟩ := memRead_frame hp
    rw [hu, State.afterLoad, State.setPc_reg?, State.reg?_setReg_ne _ _ (ne hr)]
    rfl
  | push hp =>
    obtain ⟨_, _, _, -, hu⟩ := memRead_frame hp
    rw [hu]
    rfl
  | storeQuad _ hu | storePart hu | pop _ hu =>
    obtain ⟨_, _, _, -, rfl⟩ := memWrite_frame hu
    rfl
  | test | flag | spam | interrupts => rfl
  | jump | call | ret =>
    rw [State.afterJump_eq]
    rfl

/-- Settles O52: a shape that completes writes no register but its own; r15, which the shape of LD `rs` names, is none. -/
theorem destinationFrame : Obligations.DestinationFrame := by
  intro i s t r h hr
  by_cases fifteen : r = 15#4
  · rw [fifteen, State.reg?_fifteen, State.reg?_fifteen]
  · refine (completes_of_exec h).reg? fun hd => ?_
    obtain same | none := destOf_eq (i := i)
    · exact hr (same.trans hd)
    · exact fifteen (by simpa [hd] using none)

/-! ## IE, SR and the launch parameters -/

theorem Completes.system {s t : State} {sh : Shape} (h : Completes s sh t) :
    t.sr = s.sr ∧ t.plat = s.plat ∧ (t.ie = s.ie ∨ ∃ b, sh = .interrupts b) := by
  cases h with
  | write | writeTest | test | flag | spam => exact ⟨rfl, rfl, .inl rfl⟩
  | interrupts b => exact ⟨rfl, rfl, .inr ⟨b, rfl⟩⟩
  | loadQuad _ hp | loadPart _ hp | push hp =>
    obtain ⟨_, _, _, -, hu⟩ := memRead_frame hp
    rw [hu]
    exact ⟨rfl, rfl, .inl rfl⟩
  | storeQuad _ hu | storePart hu | pop _ hu =>
    obtain ⟨_, _, _, -, rfl⟩ := memWrite_frame hu
    exact ⟨rfl, rfl, .inl rfl⟩
  | jump | call | ret =>
    rw [State.afterJump_eq]
    exact ⟨rfl, rfl, .inl rfl⟩

/-- Settles O53: only the shape of DI and EI writes IE. -/
theorem systemStateFrame : Obligations.SystemStateFrame := by
  intro i s t h
  obtain ⟨hsr, hplat, hie⟩ := (completes_of_exec h).system
  refine ⟨hsr, hplat, fun notDi notEi => ?_⟩
  obtain same | ⟨b, hb⟩ := hie
  · exact same
  · exact ((eq_di_or_ei_of_interrupts hb).elim notDi notEi).elim

/-! ## Memory -/

/-- A write leaves every byte outside its operand (R66). -/
theorem memWrite_memExcept {n : Size} {a v : Word} {s u : State} (h : memWrite n a v s = .next u) : memExcept s u n a := by
  obtain ⟨ha, hu⟩ := memWrite_eq_next.mp h
  have outside {b : Nat} (hb : outsideOperand n a b) (c : Host.Cell) (hc : c ∈ operandCells n a v) : c.1 ≠ b := by
    have within := operandCells_within n a v ha c hc
    unfold outsideOperand at hb
    omega
  intro b hb
  obtain ⟨-, rfl⟩ | ⟨-, rfl⟩ := hu
  · exact Memory.read_writeCells_of_forall_ne _ _ _ (outside hb)
  · exact Memory.read_writeCells_of_forall_ne _ _ _ fun c hc => outside hb c (mem_memoryCells.mp hc).1

/-- A write keeps the form of the record of written addresses (R74). -/
theorem memWrite_writtenWf {n : Size} {a v : Word} {s u : State} (h : memWrite n a v s = .next u)
    (hs : writtenWf s.written) : writtenWf u.written := by
  have lt := operandCells_lt n a v
  obtain ⟨-, ⟨-, rfl⟩ | ⟨-, rfl⟩⟩ := memWrite_eq_next.mp h
  · exact writtenWf_markCells hs _ lt
  · exact writtenWf_markCells (writtenWf_markCells hs _ fun c hc => lt c (mem_memoryCells.mp hc).1) _ lt

/-- A shape that completes changes memory as a write to the operand it stores does, if it stores one, and else not. -/
theorem Completes.memory {s t : State} {sh : Shape} (h : Completes s sh t) :
    (sh.stores s = none ∧ t.mem = s.mem ∧ t.written = s.written) ∨
      ∃ n a v u w, sh.stores s = some (n, a) ∧ memWrite n a v u = .next w ∧
        u.mem = s.mem ∧ u.written = s.written ∧ t.mem = w.mem ∧ t.written = w.written := by
  cases h with
  | write | writeTest | test | flag | spam | interrupts => exact .inl ⟨rfl, rfl, rfl⟩
  | loadQuad _ hp | loadPart _ hp | push hp =>
    obtain ⟨_, _, _, -, hu⟩ := memRead_frame hp
    rw [hu]
    exact .inl ⟨rfl, rfl, rfl⟩
  | storeQuad _ hu | storePart hu | pop _ hu => exact .inr ⟨_, _, _, _, _, rfl, hu, rfl, rfl, rfl, rfl⟩
  | jump | call | ret =>
    rw [State.afterJump_eq]
    exact .inl ⟨rfl, rfl, rfl⟩

/-- Settles O54: where the instruction stores, its memory is what one write to its operand leaves. -/
theorem onlyStoresWriteMemory : Obligations.OnlyStoresWriteMemory := by
  intro i s t h
  rw [storeOf_eq]
  obtain ⟨none, hmem, hwritten⟩ | ⟨n, a, v, u, w, store, hw, humem, -, htmem, -⟩ := (completes_of_exec h).memory
  · exact ⟨fun _ => ⟨fun b => by rw [hmem], hwritten⟩, fun n a store => by simp [none] at store⟩
  · refine ⟨fun none => by simp [none] at store, fun n' a' store' => ?_⟩
    obtain ⟨rfl, rfl⟩ : n = n' ∧ a = a' := by simpa [store] using store'
    intro b hb
    rw [htmem, memWrite_memExcept hw b hb, humem]

/-! ## The return stack -/

theorem Completes.stack {s t : State} {sh : Shape} (h : Completes s sh t) :
    (sh.pushes = true ∧ sh.pops = false ∧ (∃ v, t.rs = v :: s.rs) ∧ s.rs.length < s.plat.rsDepth) ∨
      (sh.pushes = false ∧ sh.pops = true ∧ ∃ v, s.rs = v :: t.rs) ∨
      (sh.pushes = false ∧ sh.pops = false ∧ t.rs = s.rs) := by
  cases h with
  | write | writeTest | test | flag | spam | interrupts => exact .inr (.inr ⟨rfl, rfl, rfl⟩)
  | loadQuad hra hp =>
    obtain ⟨_, _, _, -, hu⟩ := memRead_frame hp
    rw [hu]
    exact .inr (.inr ⟨beq_false_of_ne hra, rfl, rfl⟩)
  | loadPart _ hp =>
    obtain ⟨_, _, _, -, hu⟩ := memRead_frame hp
    rw [hu]
    exact .inr (.inr ⟨rfl, rfl, rfl⟩)
  | push hp hfits => exact .inl ⟨rfl, rfl, ⟨_, rfl⟩, hfits⟩
  | storeQuad hra hu =>
    obtain ⟨_, _, _, -, rfl⟩ := memWrite_frame hu
    exact .inr (.inr ⟨rfl, beq_false_of_ne hra, rfl⟩)
  | storePart hu =>
    obtain ⟨_, _, _, -, rfl⟩ := memWrite_frame hu
    exact .inr (.inr ⟨rfl, rfl, rfl⟩)
  | pop hrs hu =>
    obtain ⟨_, _, _, -, rfl⟩ := memWrite_frame hu
    exact .inr (.inl ⟨rfl, rfl, _, hrs⟩)
  | jump =>
    rw [State.afterJump_eq]
    exact .inr (.inr ⟨rfl, rfl, rfl⟩)
  | call _ hfits => exact .inl ⟨rfl, rfl, ⟨_, rfl⟩, hfits⟩
  | ret _ hrs => exact .inr (.inl ⟨rfl, rfl, _, hrs⟩)

/-- Settles O55: the three ways of `Completes.stack` are told apart by what the instruction pushes and pops. -/
theorem returnStackMoves : Obligations.ReturnStackMoves := by
  intro i s t h
  rw [pushesStack_eq, popsStack_eq]
  obtain ⟨push, pop, pushed, -⟩ | ⟨push, pop, popped⟩ | ⟨push, pop, same⟩ := (completes_of_exec h).stack
  · simp [push, pop, pushed]
  · simp [push, pop, popped]
  · simp [push, pop, same]

/-! ## Devices and flags -/

theorem Completes.externals {s t : State} {sh : Shape} (h : Completes s sh t) :
    (∃ l, t.devLog = s.devLog ++ l ∧ l.length ≤ 1 ∧ (sh.accesses = false → l = [])) ∧
      (flagsSame s t ∨ ∃ n cond, sh = .flag n cond) := by
  have noAccess {P : Prop} : ∃ l, s.devLog = s.devLog ++ l ∧ l.length ≤ 1 ∧ (P → l = []) :=
    ⟨[], by simp, by simp, fun _ => rfl⟩
  cases h with
  | write | writeTest | test | spam | interrupts => exact ⟨noAccess, .inl ⟨rfl, rfl⟩⟩
  | flag => exact ⟨noAccess, .inr ⟨_, _, rfl⟩⟩
  | loadQuad _ hp | loadPart _ hp | push hp =>
    obtain ⟨_, _, l, hl, hu⟩ := memRead_frame hp
    rw [hu]
    exact ⟨⟨l, rfl, hl, Bool.noConfusion⟩, .inl ⟨rfl, rfl⟩⟩
  | storeQuad _ hu | storePart hu | pop _ hu =>
    obtain ⟨_, _, l, hl, rfl⟩ := memWrite_frame hu
    exact ⟨⟨l, rfl, hl, Bool.noConfusion⟩, .inl ⟨rfl, rfl⟩⟩
  | jump | call | ret =>
    rw [State.afterJump_eq]
    exact ⟨noAccess, .inl ⟨rfl, rfl⟩⟩

/-- Settles O56: only the shapes of LD, ST and LDI access a device, once, and only that of SKIP.FS and SKIP.FC samples the
flags. -/
theorem externalAccesses : Obligations.ExternalAccesses := by
  intro i s t h
  obtain ⟨access, flags⟩ := (completes_of_exec h).externals
  refine ⟨accessesData_eq i ▸ access, fun notFs notFc => ?_⟩
  obtain same | ⟨n, cond, hflag⟩ := flags
  · exact same
  · exact ((eq_skipFs_or_skipFc_of_flag hflag).elim (notFs n) (notFc n)).elim

end Sys2Proof.Machine
end

section
/-! One step (44_skip_spam.md R220): what a fetch changes, the two ways in which a slot ends, and the machine invariant,
which either way keeps. -/

namespace Sys2Proof.Machine

/-! ## The slot -/

/-- A fetch changes device fields only. -/
theorem fetch_frame {s : State} {p : Wyde × State} (h : fetch s = .next p) :
    ∃ din count log, p.2 = { s with devIn := din, devCount := count, devLog := log } := by
  obtain ⟨-, -, -, q, hq, rfl⟩ := fetch_eq_next.mp h
  obtain ⟨din, count, l, -, hu⟩ := memRead_frame hq
  exact ⟨din, count, _, hu⟩

/-- A slot is nullified or executed, in the state after its fetch. -/
theorem step_cases {s t : State} (h : step s = .next t) :
    ∃ din count log, ∃ u : State, u = { s with devIn := din, devCount := count, devLog := log } ∧
      (t = nullifiedSlot u ∨ ∃ i, exec i u = .next t) := by
  obtain ⟨p, hp, h⟩ := andThen_eq_next.mp h
  obtain ⟨din, count, log, hu⟩ := fetch_frame hp
  refine ⟨din, count, log, p.2, hu, ?_⟩
  split at h
  · cases h
    exact .inl rfl
  · exact .inr ⟨_, h⟩

/-- A nullified slot leaves the sequencing state as a plain instruction does (R221). -/
theorem seqPlain_nullifiedSlot (s : State) : seqPlain s (nullifiedSlot s) := ⟨rfl, rfl, rfl, rfl, rfl⟩

/-- What makes a skip test, takes one or transfers control executes unhindered only (R224 a to d). -/
theorem Completes.unhindered {s t : State} {sh : Shape} (h : Completes s sh t) : sh.class = .plain ∨ s.unhindered := by
  cases h with
  | write | interrupts | loadQuad | loadPart | push | storeQuad | storePart | pop => exact .inl rfl
  | writeTest hs | test hs | flag hs | spam hs | jump hs | call hs | ret hs => exact .inr hs

/-! ## The delay slot -/

/-- Settles O57: a nullified slot and a plain instruction go to the pending target; no other instruction executes in a
delay slot. -/
theorem delaySlotThenTarget : Obligations.DelaySlotThenTarget := by
  intro s t target hd h
  obtain ⟨_, _, _, u, hu, slot⟩ := step_cases h
  have pending : u.delayTarget = some target := by rw [hu, ← hd]
  have goes (hseq : seqPlain u t) : t.pc = target ∧ t.delayTarget = none := by
    obtain ⟨-, -, -, hdelay, hpc⟩ := hseq
    exact ⟨by rw [hpc, State.nextPc, pending]; rfl, hdelay⟩
  obtain rfl | ⟨i, hi⟩ := slot
  · exact goes (seqPlain_nullifiedSlot u)
  · have completes := completes_of_exec hi
    obtain plain | free := completes.unhindered
    · exact goes (by simpa [plain, seqOfClass] using completes.sequencing)
    · simp [pending, State.unhindered] at free

/-! ## The invariant -/

theorem add_two_even {a : Word} (h : a.getLsbD 0 = false) : (a + 2#32).getLsbD 0 = false :=
  add_shiftLeft_one_even h 1#32

theorem nextPc_even {s : State} (h : s.Inv) : s.nextPc.getLsbD 0 = false := by
  cases hd : s.delayTarget with
  | none => rw [State.nextPc_of_none hd]; exact add_two_even h.pcEven
  | some a => simpa [State.nextPc, hd] using h.targetEven a hd

/-- The clauses of the invariant on `pc` and the sequencing state. -/
def State.seqInv (s : State) : Prop :=
  s.pc.getLsbD 0 = false ∧ (∀ a, s.delayTarget = some a → a.getLsbD 0 = false) ∧
    (s.delayTarget ≠ none → s.sv = 0#8 ∧ s.skipKind = .none) ∧ (s.skipKind ≠ .none → s.sv = 0#8) ∧
    (s.skipNext = true → s.skipKind ≠ .none)

/-- What is left by an instruction that transfers no control, and by a nullified slot, fits together. -/
theorem seqInv_of_class {s t : State} {c : SlotClass} (hI : s.Inv) (h : seqOfClass s t c) (hc : c ≠ .transfer) :
    t.seqInv := by
  cases c with
  | plain =>
    obtain ⟨next, kind, -, delay, pc⟩ := h
    exact ⟨pc ▸ nextPc_even hI, by simp [delay], by simp [delay], by simp [kind], by simp [next]⟩
  | skip =>
    obtain ⟨kind, sv, delay, pc⟩ := h
    exact ⟨pc ▸ add_two_even hI.pcEven, by simp [delay], by simp [delay], fun _ => sv, fun _ => kind⟩
  | spam =>
    obtain ⟨next, kind, delay, pc⟩ := h
    exact ⟨pc ▸ add_two_even hI.pcEven, by simp [delay], by simp [delay], by simp [kind], by simp [next]⟩
  | transfer => exact absurd rfl hc
  | stop => exact h.elim

/-- A jump to an even target leaves an even `pc` and an even pending target, and nothing else pending. -/
theorem seqInv_afterJump {s : State} (hpc : s.pc.getLsbD 0 = false) (hs : s.unhindered) (dnull : Bool) {a : Word}
    (ha : a.getLsbD 0 = false) : (s.afterJump dnull a).seqInv := by
  have idle : s.enter.skipNext = true → s.enter.skipKind ≠ .none := by simp
  cases dnull with
  | true => exact ⟨ha, fun b hb => (by cases hb), fun hd => absurd rfl hd, fun _ => hs.2, idle⟩
  | false => exact ⟨add_two_even hpc, fun b hb => Option.some.inj hb ▸ ha, fun _ => ⟨hs.2, rfl⟩, fun _ => hs.2, idle⟩

theorem Completes.seqInv {s t : State} {sh : Shape} (hI : s.Inv) (h : Completes s sh t) : t.seqInv := by
  by_cases hc : sh.class = .transfer
  · cases h with
    | jump hs heven => exact seqInv_afterJump hI.pcEven hs _ heven
    | call hs _ heven => exact seqInv_afterJump hI.pcEven hs _ heven
    | ret hs _ heven => exact seqInv_afterJump hI.pcEven hs _ heven
    | _ => cases hc
  · exact seqInv_of_class hI h.sequencing hc

theorem Completes.inv {s t : State} {sh : Shape} (hI : s.Inv) (h : Completes s sh t) : t.Inv := by
  obtain ⟨pcEven, targetEven, delayAlone, skipAlone, skipHasKind⟩ := h.seqInv hI
  obtain ⟨-, plat, -⟩ := h.system
  have memory : t.mem.wf ∧ writtenWf t.written := by
    obtain ⟨-, hmem, hwritten⟩ | ⟨n, a, v, u, w, -, hw, humem, huwritten, htmem, htwritten⟩ := h.memory
    · exact ⟨hmem ▸ hI.memory, hwritten ▸ hI.written⟩
    · exact ⟨htmem ▸ memWrite_mem_wf hw (humem ▸ hI.memory), htwritten ▸ memWrite_writtenWf hw (huwritten ▸ hI.written)⟩
  have stackFits : t.rs.length ≤ s.plat.rsDepth := by
    have fits := hI.stackFits
    obtain ⟨-, -, ⟨v, hrs⟩, hlt⟩ | ⟨-, -, v, hrs⟩ | ⟨-, -, hrs⟩ := h.stack
    · simp only [hrs, List.length_cons]
      omega
    · simp only [hrs, List.length_cons] at fits
      omega
    · rwa [hrs]
  exact { memory := memory.1, written := memory.2, pcEven, targetEven, delayAlone, skipAlone, skipHasKind,
          depth := plat ▸ hI.depth, stackFits := plat ▸ stackFits }

theorem nullifiedSlot_inv {s : State} (hI : s.Inv) : (nullifiedSlot s).Inv := by
  obtain ⟨pcEven, targetEven, delayAlone, skipAlone, skipHasKind⟩ :=
    seqInv_of_class (c := .plain) hI (seqPlain_nullifiedSlot s) SlotClass.noConfusion
  exact { memory := hI.memory, written := hI.written, pcEven, targetEven, delayAlone, skipAlone, skipHasKind,
          depth := hI.depth, stackFits := hI.stackFits }

/-- Settles O6: the fetch touches nothing of the invariant; a nullified slot and every way in which an instruction completes
keep it. -/
theorem invKeptByStep : Obligations.InvKeptByStep := by
  intro s t hI h
  obtain ⟨_, _, _, u, hu, slot⟩ := step_cases h
  have hIu : u.Inv := by
    rw [hu]
    exact { hI with }
  obtain rfl | ⟨i, hi⟩ := slot
  · exact nullifiedSlot_inv hIu
  · exact (completes_of_exec hi).inv hIu

end Sys2Proof.Machine
end

section
/-! Where an instruction stops before its effect: the placement restrictions of 44_skip_spam.md R224, and r15 in a position
without a meaning (10_state.md R25, decision D20). -/

namespace Sys2Proof.Machine

/-! ## Placement (R224) -/

theorem transferSlot_of_delay {s : State} (h : s.delayTarget ≠ none) (dnull : Bool) (effect : State → Res (Word × State)) :
    transferSlot s dnull effect = .refused .transferInDelaySlot :=
  if_pos (Option.isSome_iff_ne_none.mpr h)

theorem transferSlot_of_vector {s : State} (hd : s.delayTarget = none) (hv : s.sv <<< 1 ≠ 0#8) (dnull : Bool)
    (effect : State → Res (Word × State)) : transferSlot s dnull effect = .refused .transferUnderVector := by
  simp [transferSlot, hd, hv]

theorem skipSlot_of_delay {s : State} (h : s.delayTarget ≠ none) (effect : State → Res State) :
    skipSlot s effect = .refused .skipInDelaySlot :=
  if_pos (Option.isSome_iff_ne_none.mpr h)

theorem skipSlot_of_vector {s : State} (hd : s.delayTarget = none) (hv : s.sv <<< 1 ≠ 0#8) (effect : State → Res State) :
    skipSlot s effect = .refused .skipUnderVector := by
  simp [skipSlot, hd, hv]

theorem transferSlot_of_unhindered {s : State} (h : s.unhindered) (dnull : Bool) (effect : State → Res (Word × State)) :
    transferSlot s dnull effect = andThen (effect s.enter) fun p => transferTo p.2 dnull p.1 := by
  simp [transferSlot, h.1, h.2]

theorem skipSlot_of_unhindered {s : State} (h : s.unhindered) (effect : State → Res State) :
    skipSlot s effect = plainSlot s effect := by
  simp [skipSlot, h.1, h.2]

/-- A control transfer is one `transferSlot`. -/
theorem Shape.run_of_transfer {sh : Shape} (h : sh.class = .transfer) (s : State) :
    ∃ dnull effect, sh.run s = transferSlot s dnull effect := by
  cases sh with
  | jump | call | ret =>
    simp only [Shape.run, jumpSlot, callSlot]
    exact ⟨_, _, rfl⟩
  | _ => cases h

/-- What makes a skip test, or takes one, is one `skipSlot`. -/
theorem Shape.run_of_skip {sh : Shape} (h : sh.class = .skip ∨ sh.class = .spam) (s : State) :
    ∃ effect, sh.run s = skipSlot s effect := by
  cases sh with
  | test c => cases c with
    | pair | unary => exact ⟨_, rfl⟩
  | writeTest | flag | spam => exact ⟨_, rfl⟩
  | _ => exact h.elim SlotClass.noConfusion SlotClass.noConfusion

/-- Settles O50: the shapes of the instruction's class open with the tests of R224, SPAM's with its own after them. -/
theorem placementRefused : Obligations.PlacementRefused := by
  intro i s
  rw [exec_eq_run, classOf_eq]
  refine ⟨fun hc => ?transfer, fun hc => ?skip, fun hc hs hk => ?spam⟩
  case transfer =>
    obtain ⟨dnull, effect, run⟩ := Shape.run_of_transfer hc s
    rw [run]
    exact ⟨fun hd => transferSlot_of_delay hd _ _, fun hd hv => transferSlot_of_vector hd hv _ _⟩
  case skip =>
    obtain ⟨effect, run⟩ := Shape.run_of_skip hc s
    rw [run]
    exact ⟨fun hd => skipSlot_of_delay hd _, fun hd hv => skipSlot_of_vector hd hv _⟩
  case spam =>
    cases hsh : shapeOf i with
    | spam vector =>
      rw [Shape.run, spamSlot, skipSlot_of_unhindered hs]
      simp [plainSlot, hk]
    | _ => simp [hsh, Shape.class] at hc

/-! ## r15 without a meaning (R25) -/

/-- The result is a refusal of r15. -/
def RefusesR15 {α : Type} (r : Res α) : Prop :=
  r = .refused .r15Source ∨ r = .refused .r15Destination ∨ r = .refused .rsNonQuad

theorem RefusesR15.refused {α : Type} {r : Res α} (h : RefusesR15 r) : ∃ e, r = .refused e :=
  h.elim (⟨_, ·⟩) (·.elim (⟨_, ·⟩) (⟨_, ·⟩))

theorem RefusesR15.andThen {α β : Type} {r : Res α} (h : RefusesR15 r) (f : α → Res β) :
    RefusesR15 (Machine.andThen r f) := by
  obtain rfl | rfl | rfl := h
  exacts [.inl rfl, .inr (.inl rfl), .inr (.inr rfl)]

theorem refusesR15_readReg (s : State) : RefusesR15 (readReg s 15#4) := .inl (readReg_fifteen s)

theorem refusesR15_writeReg (s : State) (v : Word) : RefusesR15 (writeReg s 15#4 v) := .inr (.inl rfl)

/-- A register is read, or is r15 and refused. -/
theorem RefusesR15.of_readReg {α : Type} {s : State} {r : RegNo} {f : Word → Res α} (h : ∀ x, RefusesR15 (f x)) :
    RefusesR15 (Machine.andThen (readReg s r) f) := by
  by_cases hr : r = 15#4
  · exact hr ▸ (refusesR15_readReg s).andThen f
  · obtain ⟨x, hx⟩ := s.exists_reg? hr
    rw [readReg_eq_next.mpr hx]
    exact h x

/-- Operand B is read, or is r15 and refused. -/
theorem RefusesR15.of_opbValue {α : Type} {s : State} {b : Opb} {f : Word → Res α} (h : ∀ y, RefusesR15 (f y)) :
    RefusesR15 (Machine.andThen (opbValue s b) f) := by
  cases b with
  | reg rb => exact .of_readReg h
  | simm | pow2 | mask => exact h _

theorem RefusesR15.plainSlot {s : State} {effect : State → Res State} (h : RefusesR15 (effect s.enter)) :
    RefusesR15 (Machine.plainSlot s effect) :=
  h.andThen _

/-- The source of a value names r15 as an operand. -/
def Source.namesR15 : Source → Bool
  | .move b _ | .alu b _ => b == .reg 15#4
  | .ext rb _ => rb == 15#4
  | .unary _ | .shift .. | .address .. | .const _ => false

def Cond.namesR15 : Cond → Bool
  | .pair ra rb _ => ra == 15#4 || rb == 15#4
  | .unary ra _ => ra == 15#4

def Target.namesR15 : Target → Bool
  | .short _ | .long _ => false
  | .absolute ra | .relative ra => ra == 15#4

def Shape.namesR15 : Shape → Bool
  | .write ra v => ra == 15#4 || v.namesR15
  | .writeTest ra b .. => ra == 15#4 || b == .reg 15#4
  | .test c => c.namesR15
  | .loadPart _ ra .. | .storePart _ ra .. => ra == 15#4
  | .jump _ target | .call _ target => target.namesR15
  | _ => false

theorem namesR15_eq (i : Instr) : namesR15 i = (shapeOf i).namesR15 := by
  cases i <;> simp [namesR15, shapeOf, Shape.namesR15, Source.namesR15, Cond.namesR15, Target.namesR15]

theorem refusesR15_unarySlot (s : State) (f : Word → Word) : RefusesR15 (unarySlot s 15#4 f) := by
  rw [unarySlot]
  exact .plainSlot ((refusesR15_readReg s.enter).andThen _)

/-- Every register write with r15 in it is refused, on the full shifter by r15's own names. -/
theorem Source.run_refuses {ra : RegNo} {src : Source} {s : State} (h : (ra == 15#4 || src.namesR15) = true) :
    (∃ e, src.run ra s = .refused e) ∧ (s.plat.fullShifter = true → RefusesR15 (src.run ra s)) := by
  have of_refuses {r : Res State} (hr : RefusesR15 r) : (∃ e, r = .refused e) ∧ (s.plat.fullShifter = true → RefusesR15 r) :=
    ⟨hr.refused, fun _ => hr⟩
  have shape : ra = 15#4 ∨ src.namesR15 = true := by simpa using h
  cases src with
  | move b f =>
    refine of_refuses ?_
    rw [Source.run, moveSlot]
    refine .plainSlot ?_
    obtain rfl | hb := shape
    · exact .of_opbValue fun y => refusesR15_writeReg _ _
    · obtain rfl : b = .reg 15#4 := by simpa [Source.namesR15] using hb
      exact (refusesR15_readReg _).andThen _
  | alu b f =>
    refine of_refuses ?_
    rw [Source.run, aluSlot]
    refine .plainSlot ?_
    obtain rfl | hb := shape
    · exact (refusesR15_readReg _).andThen _
    · obtain rfl : b = .reg 15#4 := by simpa [Source.namesR15] using hb
      exact .of_readReg fun x => (refusesR15_readReg _).andThen _
  | ext rb f =>
    refine of_refuses ?_
    rw [Source.run, extSlot]
    refine .plainSlot ?_
    obtain rfl | hb := shape
    · exact .of_readReg fun x => refusesR15_writeReg _ _
    · obtain rfl : rb = 15#4 := by simpa [Source.namesR15] using hb
      exact (refusesR15_readReg _).andThen _
  | unary f =>
    obtain rfl : ra = 15#4 := by simpa [Source.namesR15] using shape
    exact of_refuses (refusesR15_unarySlot s f)
  | shift n y1aHas f =>
    obtain rfl : ra = 15#4 := by simpa [Source.namesR15] using shape
    by_cases has : (s.plat.fullShifter || y1aHas n) = true
    · rw [Source.run, shiftSlot, if_pos has]
      exact of_refuses (refusesR15_unarySlot s fun x => f x n)
    · rw [Source.run, shiftSlot, if_neg has]
      exact ⟨⟨_, rfl⟩, fun full => absurd (by rw [full, Bool.true_or]) has⟩
  | address mode rb | const v =>
    obtain rfl : ra = 15#4 := by simpa [Source.namesR15] using shape
    refine of_refuses ?_
    rw [Source.run]
    exact .plainSlot (refusesR15_writeReg _ _)

/-- Where R224 refuses no skip, it is refused for r15 if its effect is. -/
theorem skipSlot_refusesR15 {s : State} {effect : State → Res State} (h : RefusesR15 (effect s.enter)) :
    (∃ e, skipSlot s effect = .refused e) ∧ (s.unhindered → RefusesR15 (skipSlot s effect)) := by
  have free (hs : s.unhindered) : RefusesR15 (skipSlot s effect) := by
    rw [skipSlot_of_unhindered hs]
    exact .plainSlot h
  refine ⟨?_, free⟩
  by_cases hd : s.delayTarget = none
  · by_cases hv : s.sv <<< 1 = 0#8
    · exact (free ⟨hd, hv⟩).refused
    · exact ⟨_, skipSlot_of_vector hd hv effect⟩
  · exact ⟨_, skipSlot_of_delay hd effect⟩

/-- Where R224 refuses no transfer, it is refused for r15 if its effect is. -/
theorem transferSlot_refusesR15 {s : State} {effect : State → Res (Word × State)} (h : RefusesR15 (effect s.enter))
    (dnull : Bool) :
    (∃ e, transferSlot s dnull effect = .refused e) ∧
      (s.unhindered → RefusesR15 (transferSlot s dnull effect)) := by
  have free (hs : s.unhindered) : RefusesR15 (transferSlot s dnull effect) := by
    rw [transferSlot_of_unhindered hs]
    exact h.andThen _
  refine ⟨?_, free⟩
  by_cases hd : s.delayTarget = none
  · by_cases hv : s.sv <<< 1 = 0#8
    · exact (free ⟨hd, hv⟩).refused
    · exact ⟨_, transferSlot_of_vector hd hv dnull effect⟩
  · exact ⟨_, transferSlot_of_delay hd dnull effect⟩

theorem Cond.run_refuses {c : Cond} {s : State} (h : c.namesR15 = true) :
    (∃ e, c.run s = .refused e) ∧ (s.unhindered → RefusesR15 (c.run s)) := by
  cases c with
  | pair ra rb cond =>
    rw [Cond.run, skipPair, skipTest]
    refine skipSlot_refusesR15 (.andThen ?_ _)
    obtain rfl | rfl : ra = 15#4 ∨ rb = 15#4 := by simpa [Cond.namesR15] using h
    · exact (refusesR15_readReg _).andThen _
    · exact .of_readReg fun x => (refusesR15_readReg _).andThen _
  | unary ra cond =>
    rw [Cond.run, skipUnary, skipTest]
    obtain rfl : ra = 15#4 := by simpa [Cond.namesR15] using h
    exact skipSlot_refusesR15 (((refusesR15_readReg _).andThen _).andThen _)

theorem Target.refusesR15 {target : Target} (h : target.namesR15 = true) (s : State) : RefusesR15 (target.value s) := by
  cases target with
  | short | long => cases h
  | absolute ra =>
    obtain rfl : ra = 15#4 := by simpa [Target.namesR15] using h
    exact refusesR15_readReg s
  | relative ra =>
    obtain rfl : ra = 15#4 := by simpa [Target.namesR15] using h
    exact (refusesR15_readReg s).andThen fun x => .next (s.pc + x)

theorem Shape.run_refuses {sh : Shape} {s : State} (h : sh.namesR15 = true) :
    (∃ e, sh.run s = .refused e) ∧ (s.unhindered → s.plat.fullShifter = true → RefusesR15 (sh.run s)) := by
  cases sh with
  | write ra src => exact (Source.run_refuses h).imp_right fun h _ => h
  | writeTest ra b f carry =>
    rw [Shape.run, cskipSlot]
    refine (skipSlot_refusesR15 ?_).imp_right fun h hs _ => h hs
    obtain rfl | rfl : ra = 15#4 ∨ b = .reg 15#4 := by simpa [Shape.namesR15] using h
    · exact (refusesR15_readReg _).andThen _
    · exact .of_readReg fun x => (refusesR15_readReg _).andThen _
  | test c => exact (Cond.run_refuses h).imp_right fun h hs _ => h hs
  | loadPart n ra mode rb ext =>
    rw [Shape.run, Machine.loadPart, if_pos (by simpa [Shape.namesR15] using h)]
    exact ⟨⟨_, rfl⟩, fun _ _ => .inr (.inr rfl)⟩
  | storePart n ra mode rb =>
    rw [Shape.run, Machine.storePart, if_pos (by simpa [Shape.namesR15] using h)]
    exact ⟨⟨_, rfl⟩, fun _ _ => .inr (.inr rfl)⟩
  | jump dnull target =>
    rw [Shape.run, jumpSlot]
    exact (transferSlot_refusesR15 ((Target.refusesR15 h _).andThen _) dnull).imp_right fun h hs _ => h hs
  | call dnull target =>
    rw [Shape.run, callSlot]
    exact (transferSlot_refusesR15 ((Target.refusesR15 h _).andThen _) dnull).imp_right fun h hs _ => h hs
  | _ => cases h

/-- Settles O23: where neither R224 nor the shifter refuses first, the instruction's shape comes to a read or a write of r15,
or refuses r15 at once. -/
theorem r15Refused : Obligations.R15Refused := by
  intro i s h
  rw [exec_eq_run]
  exact Shape.run_refuses (namesR15_eq i ▸ h)

end Sys2Proof.Machine
end

section
/-! The word at `pc` (20_memory.md R62, R65, R69, R74; 44_skip_spam.md R220): what a step does with it where it is in
memory, where it may not be fetched, and where a device answers the fetch. -/

namespace Sys2Proof

/-! ## SPAM by its bits -/

theorem isSpamWord_encode {i : Instr} (h : Machine.classOf i = .spam) : isSpamWord (encode i) = true := by
  cases i with
  | spamAnd mask => exact Laws.SpamBits.spamAnd mask
  | spamXorn trunc mask => exact Laws.SpamBits.spamXorn trunc mask
  | _ => cases h

/-- A word with the bits of a SPAM is one, by its TRUNC field (R101). -/
theorem exists_spam_of_isSpamWord {w : Wyde} (h : isSpamWord w = true) :
    ∃ i : Instr, i.wellFormed = true ∧ encode i = w ∧ Machine.classOf i = .spam := by
  obtain ⟨op, x, rfl⟩ := exists_append (m := 5) (n := 11) w
  obtain ⟨trunc, mask, rfl⟩ := exists_append (m := 3) (n := 8) x
  have hop : op = 0b11110#5 := by
    have top : (op ++ (trunc ++ mask) : Wyde).extractLsb' 11 5 = op := BitVec.extractLsb'_append_eq_left
    simpa [isSpamWord, top] using h
  subst hop
  have word : packEight (0b11110#5 ++ trunc) mask = 0b11110#5 ++ (trunc ++ mask) :=
    BitVec.append_assoc (x₁ := 0b11110#5) (x₂ := trunc) (x₃ := mask)
  rw [← word]
  by_cases ht : trunc = 7#3
  · exact ⟨.spamAnd mask, rfl, ht ▸ rfl, rfl⟩
  · exact ⟨.spamXorn trunc mask, by simpa [Instr.wellFormed] using ht, rfl, rfl⟩

/-- The slot algorithm's question of the word is a question of the instruction (R220). -/
theorem isSpamWord_iff {w : Wyde} : isSpamWord w = true ↔ Machine.classOf (decodeWord w) = .spam := by
  constructor
  · intro h
    obtain ⟨i, hw, rfl, hc⟩ := exists_spam_of_isSpamWord h
    rwa [decodeOfEncode i hw]
  · intro h
    have spam := isSpamWord_encode h
    rwa [(encodeOfDecode w).2] at spam

end Sys2Proof

namespace Sys2Proof.Machine

/-! ## A word in memory -/

theorem State.holdsAtPc_iff {s : State} {i : Instr} : s.holdsAtPc i ↔ decodeWord s.wordAtPc = i := by
  simp [State.holdsAtPc, decodeBytes, State.wordAtPc]

theorem nullified_of_vector {s : State} (h : s.sv.getLsbD 7 = true) (w : Wyde) : nullified w s = true := by
  simp only [nullified, h, Bool.true_or, ite_self]

/-- Where the slot has no vector bit it is nullified by a true test, which SPAM does not heed (R220). -/
theorem nullified_of_no_vector {s : State} (h : s.sv.getLsbD 7 = false) (w : Wyde) :
    nullified w s = true ↔ s.skipNext = true ∧ isSpamWord w = false := by
  rw [nullified, h]
  cases isSpamWord w <;> simp

theorem step_of_fetchable {s : State} (h : s.fetchable) :
    step s = if nullified s.wordAtPc s then .next (nullifiedSlot s) else exec (decodeWord s.wordAtPc) s := by
  rw [step, fetch_of_fetchable h, andThen_next]

/-- Settles O7: nothing nullifies the slot. -/
theorem stepRunsDecodedInstruction : Obligations.StepRunsDecodedInstruction := by
  intro s i hf hi hv hs
  rw [State.holdsAtPc_iff] at hi
  rw [step_of_fetchable hf, hi, if_neg]
  rw [nullified_of_no_vector hv]
  rintro ⟨htest, notSpam⟩
  obtain no | spam := hs
  · simp [no] at htest
  · simp [isSpamWord_iff.mpr (hi ▸ spam)] at notSpam

theorem regsSame_nullifiedSlot (s : State) : regsSame s (nullifiedSlot s) := fun _ => rfl

theorem restSame_nullifiedSlot (s : State) : restSame s (nullifiedSlot s) := by
  simp [restSame, memSame, stackSame, systemSame, flagsSame, devicesSame, nullifiedSlot]

/-- Settles O8: its vector bit, or a true test that it heeds, nullifies the slot. -/
theorem nullifiedSlotDoesNothing : Obligations.NullifiedSlotDoesNothing := by
  intro s i hf hi hn
  rw [State.holdsAtPc_iff] at hi
  have null : nullified s.wordAtPc s = true := by
    by_cases hv : s.sv.getLsbD 7 = true
    · exact nullified_of_vector hv _
    · obtain ⟨htest, hc⟩ := hn.resolve_left hv
      have notSpam : isSpamWord s.wordAtPc = false := by
        rw [← Bool.not_eq_true, isSpamWord_iff, hi]
        exact hc
      exact (nullified_of_no_vector (by simpa using hv) _).mpr ⟨htest, notSpam⟩
  exact ⟨_, by rw [step_of_fetchable hf, if_pos null], regsSame_nullifiedSlot s, restSame_nullifiedSlot s,
    seqPlain_nullifiedSlot s⟩

/-- Settles O59: the word is `bra` with offset 0, whose next state is the state itself where nothing is pending. -/
theorem branchToSelfEndsRun : Obligations.BranchToSelfEndsRun := by
  intro s hf hw hnext hkind hsv hdelay
  have hb : decodeWord s.wordAtPc = .bra 0#9 := by rw [hw]; rfl
  have target : shortTarget s 0#9 = s.pc := BitVec.add_zero s.pc
  have self : s.afterJump true s.pc = s := by
    cases s
    simp_all [State.afterJump, State.enter, State.setPc]
  have free : s.unhindered := ⟨hdelay, by rw [hsv]; rfl⟩
  have runs : jumpSlot s true (fun t => .next (shortTarget t 0#9)) = .next (s.afterJump true s.pc) :=
    jumpSlot_eq_next.mpr ⟨free, s.pc, congrArg _ target, transferTo_eq_next.mpr ⟨hf.1, rfl⟩⟩
  rw [State.ended, step_of_fetchable hf, hb, if_neg]
  · exact runs.trans (congrArg _ self)
  · exact fun null => by simpa [hnext] using (nullified_of_no_vector (by rw [hsv]; rfl) _).mp null

/-! ## A word that may not be fetched, and one that a device answers -/

theorem fetch_of_unwritten {s : State} (he : s.pc.getLsbD 0 = false) (h0 : s.pc.toNat ∉ s.written)
    (h1 : (s.pc + 1#32).toNat ∉ s.written) :
    fetch s = andThen (memRead .wyde s.pc s) fun p => .next (p.1.setWidth 16, p.2) := by
  rw [fetch, if_neg (ne_true_of_eq_false he), if_neg (not_or.mpr ⟨h0, h1⟩)]

/-- Settles O9: the tests of the fetch in their order, then those of the access. -/
theorem fetchStops : Obligations.FetchStops := by
  intro s
  refine ⟨fun ho => ?odd, fun he hw => ?written, fun he h0 h1 => ⟨fun hn => ?unmapped, fun hd hv ht => ?device⟩⟩
  case odd => rw [step, fetch, if_pos ho, andThen_fault]
  case written => rw [step, fetch, if_neg (ne_true_of_eq_false he), if_pos hw, andThen_fault]
  case unmapped =>
    rw [step, fetch_of_unwritten he h0 h1, memRead_unmapped (aligned_wyde_of_even he) hn, andThen_fault, andThen_fault]
  case device =>
    have ha := aligned_wyde_of_even he
    have read := memRead_eq_next.mpr ⟨ha, .inr ⟨hd, rfl⟩⟩
    refine ⟨deviceOperand s .wyde s.pc, (answersRead_iff ha).mpr rfl, ?_⟩
    rw [step, fetch_of_unwritten he h0 h1, read, andThen_next, andThen_next, if_neg]
    exact fun null => by simpa [ht] using (nullified_of_no_vector hv _).mp null

/-! ## A word that the platform has placed (log 32) -/

theorem kindAt_mapWithMemory (map : List Region) {a : Word} {i : Nat} (hi : i < 2) :
    kindAt (mapWithMemory map a) (a.toNat + i) = some .memory := by
  rw [mapWithMemory]
  split
  · next h => exact accessKind_eq_memory.mp h i hi
  · simp [kindAt, Region.holds, hi]

theorem withFetchWord_fetchable {s : State} (he : s.pc.getLsbD 0 = false) (nbits w : Nat) :
    (s.withFetchWord nbits w).fetchable := by
  have next := aligned_wyde (aligned_wyde_of_even he)
  refine ⟨he, ?_, ?_, kindAt_mapWithMemory (i := 0) _ (by decide), ?_⟩
  · simp [State.withFetchWord]
  · simp [State.withFetchWord]
  · change kindAt _ (s.pc + 1#32).toNat = _
    rw [next]
    exact kindAt_mapWithMemory _ (by decide)

theorem withFetchWord_wordAtPc {s : State} (he : s.pc.getLsbD 0 = false) (w : Wyde) :
    (s.withFetchWord 16 w.toNat).wordAtPc = w := by
  have apart : (s.pc + 1#32).toNat ≠ s.pc.toNat := by
    rw [aligned_wyde (aligned_wyde_of_even he)]
    omega
  have word : BitVec.ofNat 16 (w.toNat % 2 ^ 16) = w := by
    rw [Nat.mod_eq_of_lt w.isLt, BitVec.ofNat_toNat, BitVec.setWidth_eq]
  have high : (s.withFetchWord 16 w.toNat).mem.byteAt s.pc 0 = w.extractLsb' 8 8 := by
    simp only [State.withFetchWord, word, Memory.byteAt, BitVec.add_zero]
    rw [Memory.read_write_ne _ _ apart, Memory.read_write_same]
  have low : (s.withFetchWord 16 w.toNat).mem.byteAt s.pc 1 = w.extractLsb' 0 8 := by
    simp only [State.withFetchWord, word, Memory.byteAt]
    exact Memory.read_write_same _ _ _
  calc (s.withFetchWord 16 w.toNat).wordAtPc
    _ = w.extractLsb' 8 8 ++ w.extractLsb' 0 8 := congrArg₂ _ high low
    _ = w.extractLsb' 0 (8 + 8) := BitVec.extractLsb'_append_extractLsb'_eq_extractLsb' rfl
    _ = w := BitVec.extractLsb'_eq_self

/-- Settles O10: the placed word is in memory at `pc`, unwritten, and decodes to the instruction it encodes. -/
theorem placedWordRuns : Obligations.PlacedWordRuns := by
  intro s i hw he hv ht
  refine ⟨?_, fun _ => rfl, rfl⟩
  refine stepRunsDecodedInstruction _ i (withFetchWord_fetchable he _ _) ?_ hv (.inl ht)
  rw [State.holdsAtPc_iff, withFetchWord_wordAtPc he, decodeOfEncode i hw]

end Sys2Proof.Machine
end

section
/-! XOR and NOP (40_logical_move.md R138, R142), SUB.SNB and RSUB.SNB (41_arithmetic.md R153, R155, R157), and the counts of
the Y1A shifter (R163). -/

namespace Sys2Proof.Machine

/-- Settles O13: XOR is one `aluSlot`; NOP writes r0's own value back to it. -/
theorem xorResultAndNop : Obligations.XorResultAndNop := by
  refine ⟨fun s ra b x y => ⟨packAlu_eq_wordOfAlu _ b ra, fun hb hx => writesReg_of_aluSlot rfl hx hb rfl⟩, rfl, rfl,
    fun s => ?nop⟩
  have zero_ne : (0#4 : RegNo) ≠ 15#4 := by decide
  obtain ⟨x, hx⟩ := s.exists_reg? zero_ne
  have completes : exec .nop s = .next (s.afterWrite 0#4 x) :=
    (moveSlot_eq_next (b := .reg 0#4) (f := fun y => y)).mpr ⟨zero_ne, x, hx, rfl⟩
  refine ⟨_, completes, fun r => ?_, restSame_afterWrite s 0#4 x⟩
  by_cases hr : r = 0#4
  · rw [hr, State.afterWrite_reg?_same s zero_ne, hx]
  · exact regsExcept_afterWrite s 0#4 x r hr

/-- Settles O17: each meaning is one `cskipSlot`; that there is no borrow is the order the other way round. -/
theorem subSnbRsubSnbResultAndTest : Obligations.SubSnbRsubSnbResultAndTest := by
  intro s ra b x y
  refine ⟨⟨packAlu_eq_wordOfAlu _ b ra, packAlu_eq_wordOfAlu _ b ra⟩, fun hb hx hs => ?_⟩
  exact ⟨writesRegAndTests_of_cskipSlot rfl hs hx hb rfl (not_condLo_eq_decide x y),
    writesRegAndTests_of_cskipSlot rfl hs hx hb rfl (not_condLo_eq_decide y x)⟩

/-- Bit 32 of a 33-bit word says whether it reaches 2^32. -/
theorem getLsbD_32_eq_decide (z : BitVec 33) : z.getLsbD 32 = decide (2 ^ 32 ≤ z.toNat) :=
  (BitVec.msb_eq_getLsbD_last z).symm.trans (BitVec.msb_eq_decide z)

/-- Settles O18: neither 33-bit sum wraps. -/
theorem carryAndBorrow : Obligations.CarryAndBorrow := by
  intro x y
  have hx := x.isLt
  have hy := y.isLt
  have sum : (x.setWidth 33 + y.setWidth 33).toNat = x.toNat + y.toNat := by simp; omega
  have difference : (x.setWidth 33 + (~~~y).setWidth 33 + 1#33).toNat = x.toNat + (2 ^ 32 - 1 - y.toNat) + 1 := by
    simp; omega
  refine ⟨?carry, condLo_eq_decide x y, ?complement⟩
  case carry => rw [carryOut, getLsbD_32_eq_decide, sum]
  case complement =>
    rw [getLsbD_32_eq_decide, difference, ← decide_not]
    exact (condLo_eq_decide x y).trans (decide_eq_decide.mpr (by omega))

/-- Where the Y1A lacks a count the shift is refused (R163). -/
theorem shiftSlot_refused {s : State} {n : BitVec 5} {y1aHas : BitVec 5 → Bool} (hfull : s.plat.fullShifter = false)
    (hn : y1aHas n = false) (ra : RegNo) (f : Word → BitVec 5 → Word) :
    shiftSlot s ra n y1aHas f = .refused .shifterCount := by
  rw [shiftSlot, hfull, hn]
  rfl

/-- Settles O20: each meaning is one `shiftSlot`, which the limited shifter lets complete for the counts it has. -/
theorem y1aShifterCounts : Obligations.Y1aShifterCounts := by
  intro s ra n x hfull hx
  have has {i : Instr} {k : BitVec 5} {y1aHas : BitVec 5 → Bool} {f : Word → BitVec 5 → Word} {v : Word}
      (hi : exec i s = shiftSlot s ra k y1aHas f) (hk : y1aHas k = true) (hv : f x k = v) : writesReg i s ra v :=
    writesReg_of_shiftSlot hi (by rw [hk, Bool.or_true]) hx hv
  have ror (k : BitVec 5) := shiftRor_eq_rotateRight x k
  have rol (k : BitVec 5) := shiftRol_eq_rotateLeft x k
  refine ⟨has rfl rfl rfl, has rfl rfl rfl, has rfl rfl (ror 1#5), has rfl rfl rfl, has rfl rfl rfl,
    has rfl rfl (rol 1#5), has rfl rfl (rol 2#5), has rfl rfl (rol 1#5), fun h1 => ?one, fun h1 h2 => ?oneTwo⟩
  case one =>
    have lacks : y1aCountOne n = false := beq_false_of_ne h1
    exact ⟨shiftSlot_refused hfull lacks ra _, shiftSlot_refused hfull lacks ra _, shiftSlot_refused hfull lacks ra _⟩
  case oneTwo =>
    have lacks : y1aCountOneTwo n = false := by simp [y1aCountOneTwo, h1, h2]
    exact ⟨shiftSlot_refused hfull lacks ra _, shiftSlot_refused hfull lacks ra _⟩

end Sys2Proof.Machine
end

section
/-! The tests of wydes and bytes (44_skip_spam.md R238 to R241, R244 to R247), SKIP.A and SKIP.N (R254, R255), the flag tests
(R248, R249) and SPAM (R258 to R260). -/

namespace Sys2Proof.Machine

/-! ## Wydes and bytes -/

theorem condAwz_eq_decide (x : Word) : condAwz x = decide (∃ k : Fin 2, x.extractLsb' (16 * k) 16 = 0#16) := by
  simp [condAwz, Fin.exists_fin_two, Bool.beq_eq_decide_eq, Bool.or_comm]

theorem condAbz_eq_decide (x : Word) : condAbz x = decide (∃ k : Fin 4, x.extractLsb' (8 * k) 8 = 0#8) := by
  have bytes : (∃ k : Fin 4, x.extractLsb' (8 * k) 8 = 0#8) ↔ x.extractLsb' 0 8 = 0#8 ∨ x.extractLsb' 8 8 = 0#8 ∨
      x.extractLsb' 16 8 = 0#8 ∨ x.extractLsb' 24 8 = 0#8 := by
    simp [Fin.exists_fin_succ]
  rw [Bool.eq_iff_iff, decide_eq_true_iff, bytes]
  simp only [condAbz, Bool.or_eq_true, beq_iff_eq]
  tauto

theorem condAwm_eq_decide (x : Word) : condAwm x = decide (∃ k : Fin 2, x.getLsbD (16 * k + 15) = true) := by
  simp [condAwm, Fin.exists_fin_two, Bool.or_comm]

/-- The mask of R246 has the top bit of each byte. -/
theorem byteSigns_getLsbD : ∀ i < 32, (0x80808080#32).getLsbD i = true ↔ ∃ k : Fin 4, i = 8 * k + 7 := by decide

theorem condAbm_eq_decide (x : Word) : condAbm x = decide (∃ k : Fin 4, x.getLsbD (8 * k + 7) = true) := by
  rw [condAbm, bne, Bool.beq_eq_decide_eq, ← decide_not, decide_eq_decide]
  constructor
  · intro some
    by_contra none
    refine some (BitVec.eq_of_getLsbD_eq fun i hi => ?_)
    rw [BitVec.getLsbD_and, BitVec.getLsbD_zero, Bool.and_eq_false_iff, or_iff_not_imp_right]
    intro hm
    obtain ⟨k, rfl⟩ := (byteSigns_getLsbD i hi).mp (by simpa using hm)
    simpa using not_exists.mp none k
  · rintro ⟨k, hk⟩ zero
    have bit := congrArg (BitVec.getLsbD · (8 * k + 7)) zero
    rw [BitVec.getLsbD_and, hk, (byteSigns_getLsbD _ (by omega)).mpr ⟨k, rfl⟩, BitVec.getLsbD_zero] at bit
    cases bit

/-- Settles O40: each pair of meanings is one `skipUnary` over a condition and its negation. -/
theorem skipWydeAndByteTests : Obligations.SkipWydeAndByteTests := by
  intro s ra x hx hs
  have hands {i : Instr} {cond : Word → Bool} {test : Bool} (ht : cond x = test)
      (hi : exec i s = skipUnary s ra cond) : makesTest i s test := makesTest_of_skipUnary hi hs hx ht
  have not {P Q : Prop} [Decidable P] [Decidable Q] {b : Bool} (hb : b = decide P) (hPQ : ¬ P ↔ Q) : (!b) = decide Q := by
    rw [hb, ← decide_not, decide_eq_decide]
    exact hPQ
  exact ⟨hands (condAwz_eq_decide x) rfl, hands (not (condAwz_eq_decide x) not_exists) rfl, hands (condAbz_eq_decide x) rfl,
    hands (not (condAbz_eq_decide x) not_exists) rfl, hands (condAwm_eq_decide x) rfl,
    hands (not (condAwm_eq_decide x) (by simp)) rfl, hands (condAbm_eq_decide x) rfl,
    hands (not (condAbm_eq_decide x) (by simp)) rfl⟩

/-! ## Always, never and the flags -/

/-- Where R224 b and d let it execute, a flag skip takes one sample, hands on its test of the flag's level and changes
nothing else. -/
theorem completes_of_skipFlag {i : Instr} {s : State} {n : BitVec 4} {cond : Bool → Bool}
    (hi : exec i s = skipFlag s n cond) (hs : s.unhindered) :
    ∃ t, exec i s = .next t ∧ t.skipNext = cond ((nextLevels s).getLsbD n.toNat) ∧ t.skipKind = .skip ∧
      regsSame s t ∧ memSame s t ∧ stackSame s t ∧ systemSame s t ∧ devicesSame s t ∧
      t.flagIn = s.flagIn.tail ∧ t.flagCount = s.flagCount + 1 :=
  ⟨_, hi.trans (skipFlag_eq_next.mpr ⟨hs, rfl⟩), rfl, rfl, fun _ => rfl, ⟨fun _ => rfl, rfl⟩, rfl, ⟨rfl, rfl, rfl⟩,
    ⟨rfl, rfl, rfl⟩, rfl, rfl⟩

/-- Settles O41: SKIP.A and SKIP.N compare r0 with itself. -/
theorem skipAlwaysNeverFlags : Obligations.SkipAlwaysNeverFlags := by
  intro s n hs
  obtain ⟨x, hx⟩ := s.exists_reg? (r := 0#4) (by decide)
  have same : condEq x x = true := beq_self_eq_true x
  refine ⟨makesTest_of_skipPair rfl hs hx hx same, ?never, fun l rest h => ?sample,
    completes_of_skipFlag (cond := fun b => b) rfl hs,
    completes_of_skipFlag (cond := fun b => !b) rfl hs⟩
  case never => exact makesTest_of_skipPair (cond := fun x y => !condEq x y) rfl hs hx hx (by rw [same]; rfl)
  case sample => rw [nextLevels, h]; rfl

/-! ## SPAM -/

theorem regsSame_afterSpam (s : State) (v : BitVec 8) : regsSame s (s.afterSpam v) := fun _ => rfl

theorem restSame_afterSpam (s : State) (v : BitVec 8) : restSame s (s.afterSpam v) := by
  simp [restSame, memSame, stackSame, systemSame, flagsSame, devicesSame, State.afterSpam]

/-- Settles O42: the meaning is one `spamSlot`, in the shadow of a SKIP.cc. -/
theorem spamAndLoadsVector : Obligations.SpamAndLoadsVector := by
  intro s mask
  refine ⟨rfl, fun hs hk => ?_⟩
  have completes : exec (.spamAnd mask) s = .next (s.afterSpam (spamAndVector s.skipNext mask)) :=
    (spamSlot_eq_next (vector := fun test => spamAndVector test mask)).mpr ⟨hs, hk, rfl⟩
  exact ⟨_, completes, rfl, regsSame_afterSpam s _, restSame_afterSpam s _⟩

/-- The TRUNC mask keeps the `8 - TRUNC` most significant bits (R260). -/
theorem truncMask_getLsbD (trunc : BitVec 3) {n : Nat} (hn : n < 8) :
    (truncMask trunc).getLsbD (7 - n) = decide (n < 8 - trunc.toNat) := by
  rw [truncMask, BitVec.getLsbD_shiftLeft]
  interval_cases n <;> decide +revert

/-- The vector of SPAM.XORN, bit by bit (R259). -/
theorem spamXornVector_getLsbD (test : Bool) (trunc : BitVec 3) (mask : BitVec 8) {n : Nat} (hn : n < 8) :
    (spamXornVector test trunc mask).getLsbD (7 - n) =
      (decide (n < 8 - trunc.toNat) && (test ^^ !mask.getLsbD (7 - n))) := by
  have ones : (0xFF#8).getLsbD (7 - n) = true := by
    interval_cases n <;> rfl
  rw [spamXornVector, BitVec.getLsbD_and, truncMask_getLsbD trunc hn, Bool.and_comm, BitVec.getLsbD_xor, BitVec.getLsbD_not,
    decide_eq_true (by omega : 7 - n < 8)]
  cases test <;> simp [ones, -BitVec.getLsbD_eq_getElem]

/-- Settles O43: the meaning is one `spamSlot`, and the vector is `spamXornVector`'s. -/
theorem spamXornLoadsVector : Obligations.SpamXornLoadsVector := by
  intro s trunc mask hs hk
  have completes : exec (.spamXorn trunc mask) s = .next (s.afterSpam (spamXornVector s.skipNext trunc mask)) :=
    (spamSlot_eq_next (vector := fun test => spamXornVector test trunc mask)).mpr ⟨hs, hk, rfl⟩
  exact ⟨_, completes, regsSame_afterSpam s _, restSame_afterSpam s _, fun n hn => spamXornVector_getLsbD _ _ _ hn⟩

end Sys2Proof.Machine
end

section
/-! Control transfers where nothing is pending (45_control_transfer.md R271 to R294): where a jump, a call or a return goes, what
it leaves on the return stack, and where it stops. -/

namespace Sys2Proof.Machine

/-! ## Targets (R105, R285, R289) -/

theorem longTarget_eq_longBranch {s : State} {x : Word} (h : s.reg? 14#4 = some x) (i9 : BitVec 9) :
    longTarget s i9 = longBranch s x i9 := by
  obtain ⟨-, -, named⟩ := s.reg?_named
  obtain rfl : s.imm = x := Option.some.inj (named.symm.trans h)
  exact (BitVec.add_assoc _ _ _).symm

theorem longBranch_even {s : State} (h : s.pc.getLsbD 0 = false) (x : Word) (i9 : BitVec 9) :
    (longBranch s x i9).getLsbD 0 = false := by
  have shift : x <<< 10 = (x <<< 9) <<< 1 := BitVec.shiftLeft_add x 9 1
  rw [longBranch, shift]
  exact add_shiftLeft_one_even (add_shiftLeft_one_even h _) _

theorem relativeTarget_eq_next {s : State} {ra : RegNo} {x : Word} (h : s.reg? ra = some x) :
    relativeTarget ra s = .next (s.pc + x) := by
  rw [relativeTarget, readReg_eq_next.mpr h, andThen_next]

/-! ## Jumps -/

/-- Settles O45: each meaning is one `jumpSlot` to the long branch's target, which is even because the pc is. -/
theorem longBranchTargets : Obligations.LongBranchTargets := by
  intro s i9 x hpc hs hx
  have goes {i : Instr} {dnull : Bool} (hi : exec i s = jumpSlot s dnull fun t => .next (longTarget t i9)) :
      transfers i s dnull (longBranch s x i9) :=
    transfers_of_jumpSlot hi hs (by rw [longTarget_enter, longTarget_eq_longBranch hx]) (longBranch_even hpc x i9)
  exact ⟨goes rfl, goes rfl⟩

/-- Settles O46: each meaning is one `jumpSlot`, to the register or to the pc plus the register. -/
theorem registerJumpTargets : Obligations.RegisterJumpTargets := by
  intro s ra x hx hs
  have absolute : absoluteTarget ra s.enter = .next x := readReg_eq_next.mpr hx
  have relative : relativeTarget ra s.enter = .next (s.pc + x) := relativeTarget_eq_next hx
  exact ⟨fun he => ⟨transfers_of_jumpSlot rfl hs absolute he, transfers_of_jumpSlot rfl hs absolute he⟩,
    fun he => ⟨transfers_of_jumpSlot rfl hs relative he, transfers_of_jumpSlot rfl hs relative he⟩⟩

/-! ## Calls and returns -/

/-- What a jump's next state with another return stack holds and leaves unchanged. -/
theorem transfersWithStack_of_afterJump {i : Instr} {s : State} {dnull : Bool} {a : Word} {l : List Word}
    (h : exec i s = .next ((s.afterJump dnull a).setRs l)) : transfersWithStack i s dnull a l := by
  obtain ⟨memory, -, system, flags, devices⟩ := restSame_afterJump s dnull a
  exact ⟨_, h, goesTo_afterJump s dnull a, rfl, regsSame_afterJump s dnull a, memory, system, flags, devices⟩

/-- Where R224 a and c let it execute, a call with a place left goes to an even target and pushes its return address. -/
theorem transfersWithStack_of_callSlot {i : Instr} {s : State} {dnull : Bool} {target : State → Res Word} {a : Word}
    (hi : exec i s = callSlot s dnull target) (hs : s.unhindered) (hfits : s.rs.length < s.plat.rsDepth)
    (ha : target s.enter = .next a) (heven : a.getLsbD 0 = false) :
    transfersWithStack i s dnull a (returnAddress s dnull :: s.rs) :=
  transfersWithStack_of_afterJump <|
    hi.trans (callSlot_eq_next.mpr ⟨hs, hfits, a, ha, transferTo_enter_setRs.mpr ⟨heven, rfl⟩⟩)

/-- Where R224 a and c let it execute, a return goes to an even entry and pops it. -/
theorem transfersWithStack_of_rsPop {i : Instr} {s : State} {dnull : Bool} {a : Word} {rest : List Word}
    (hi : exec i s = transferSlot s dnull rsPop) (hs : s.unhindered) (hrs : s.rs = a :: rest)
    (heven : a.getLsbD 0 = false) : transfersWithStack i s dnull a rest := by
  have pops : rsPop s.enter = .next (a, s.enter.setRs rest) := rsPop_eq_next.mpr ⟨by simp [hrs], by simp [hrs]⟩
  exact transfersWithStack_of_afterJump <|
    hi.trans (transferSlot_eq_next.mpr ⟨hs, a, _, pops, transferTo_enter_setRs.mpr ⟨heven, rfl⟩⟩)

/-- Settles O47: each meaning is one `callSlot`, whose target is that of the jump of the same addressing. -/
theorem callsPushAndGo : Obligations.CallsPushAndGo := by
  intro s hs hfits
  refine ⟨fun i9 x hpc hx => ?branches, fun ra x hx => ⟨fun he => ?absolute, fun he => ?relative⟩⟩
  case branches =>
    have short {i : Instr} {dnull : Bool} (hi : exec i s = callSlot s dnull fun t => .next (shortTarget t i9)) :=
      transfersWithStack_of_callSlot hi hs hfits (by rw [shortTarget_enter, shortTarget_eq_shortBranch])
        (shortBranch_even hpc i9)
    have long {i : Instr} {dnull : Bool} (hi : exec i s = callSlot s dnull fun t => .next (longTarget t i9)) :=
      transfersWithStack_of_callSlot hi hs hfits (by rw [longTarget_enter, longTarget_eq_longBranch hx])
        (longBranch_even hpc x i9)
    exact ⟨short rfl, short rfl, long rfl, long rfl⟩
  case absolute =>
    have target : absoluteTarget ra s.enter = .next x := readReg_eq_next.mpr hx
    exact ⟨transfersWithStack_of_callSlot rfl hs hfits target he, transfersWithStack_of_callSlot rfl hs hfits target he⟩
  case relative =>
    have target : relativeTarget ra s.enter = .next (s.pc + x) := relativeTarget_eq_next hx
    exact ⟨transfersWithStack_of_callSlot rfl hs hfits target he, transfersWithStack_of_callSlot rfl hs hfits target he⟩

/-- Settles O48: each meaning is one `transferSlot` over the pop. -/
theorem returnsPopTarget : Obligations.ReturnsPopTarget := by
  intro s v rest hs hrs he
  exact ⟨transfersWithStack_of_rsPop rfl hs hrs he, transfersWithStack_of_rsPop rfl hs hrs he⟩

/-- A call's return address is even where its pc is. -/
theorem returnAddress_even {s : State} (h : s.pc.getLsbD 0 = false) (dnull : Bool) :
    (returnAddress s dnull).getLsbD 0 = false := by
  cases dnull with
  | true => exact add_two_even h
  | false => exact add_shiftLeft_one_even h 2#32

/-- Settles O58: the call leaves its return address, which is even, on top of the return stack; whether its delay slot is
pending says which of the two it is. -/
theorem callThenReturn : Obligations.CallThenReturn := by
  intro i s t u hc hpush h hpc hrs hu
  rw [classOf_eq] at hc
  rw [pushesStack_eq] at hpush
  have completes := completes_of_exec h
  generalize shapeOf i = sh at hc hpush completes
  cases completes with
  | @call dnull _ a hs hfits heven =>
    obtain ⟨w, hw, ⟨-, pc⟩, rs, -⟩ := (returnsPopTarget u _ _ hu hrs (returnAddress_even hpc dnull)).1
    refine ⟨w, hw, rs, pc.trans ?_⟩
    cases dnull <;> rfl
  | jump | ret => cases hpush
  | _ => cases hc

/-! ## Stops -/

theorem transferTo_odd {a : Word} (h : a.getLsbD 0 = true) (s : State) (dnull : Bool) :
    transferTo s dnull a = .fault (.oddTarget a) :=
  if_pos h

theorem rsPush_full {s : State} (h : s.plat.rsDepth ≤ s.rs.length) (v : Word) : rsPush s v = .fault .rsOverflow :=
  if_neg (Nat.not_lt.mpr h)

theorem rsPop_empty {s : State} (h : s.rs = []) : rsPop s = .fault .rsUnderflow := by
  rw [rsPop, h]

theorem jumpSlot_odd {s : State} {target : State → Res Word} {a : Word} (hs : s.unhindered)
    (ha : target s.enter = .next a) (ho : a.getLsbD 0 = true) (dnull : Bool) :
    jumpSlot s dnull target = .fault (.oddTarget a) := by
  rw [jumpSlot, transferSlot_of_unhindered hs, ha]
  exact transferTo_odd ho _ _

theorem callSlot_odd {s : State} {target : State → Res Word} {a : Word} (hs : s.unhindered)
    (ha : target s.enter = .next a) (ho : a.getLsbD 0 = true) (hfits : s.rs.length < s.plat.rsDepth) (dnull : Bool) :
    callSlot s dnull target = .fault (.oddTarget a) := by
  have pushes : rsPush s.enter (returnAddress s.enter dnull) = .next (s.enter.setRs (returnAddress s dnull :: s.rs)) :=
    rsPush_eq_next.mpr ⟨hfits, rfl⟩
  rw [callSlot, transferSlot_of_unhindered hs, ha, andThen_next, pushes]
  exact transferTo_odd ho _ _

theorem callSlot_full {s : State} {target : State → Res Word} {a : Word} (hs : s.unhindered)
    (ha : target s.enter = .next a) (hfull : s.plat.rsDepth ≤ s.rs.length) (dnull : Bool) :
    callSlot s dnull target = .fault .rsOverflow := by
  rw [callSlot, transferSlot_of_unhindered hs, ha, andThen_next, rsPush_full (s := s.enter) hfull]
  rfl

theorem return_empty {s : State} (hs : s.unhindered) (h : s.rs = []) (dnull : Bool) :
    transferSlot s dnull rsPop = .fault .rsUnderflow := by
  rw [transferSlot_of_unhindered hs, rsPop_empty (s := s.enter) h, andThen_fault]

theorem return_odd {s : State} {a : Word} {rest : List Word} (hs : s.unhindered) (h : s.rs = a :: rest)
    (ho : a.getLsbD 0 = true) (dnull : Bool) : transferSlot s dnull rsPop = .fault (.oddTarget a) := by
  have pops : rsPop s.enter = .next (a, s.enter.setRs rest) := rsPop_eq_next.mpr ⟨by simp [h], by simp [h]⟩
  rw [transferSlot_of_unhindered hs, pops, andThen_next]
  exact transferTo_odd ho _ _

/-- Settles O49: the target is read, then the stack is asked, then the target's parity. -/
theorem transferStops : Obligations.TransferStops := by
  intro s hs
  refine ⟨fun ra x hx => ?registers, fun i9 hfull => ?branches,
    fun hempty => ⟨return_empty hs hempty true, return_empty hs hempty false⟩,
    fun v rest hrs ho => ⟨return_odd hs hrs ho true, return_odd hs hrs ho false⟩⟩
  case registers =>
    have absolute : absoluteTarget ra s.enter = .next x := readReg_eq_next.mpr hx
    have relative : relativeTarget ra s.enter = .next (s.pc + x) := relativeTarget_eq_next hx
    refine ⟨fun ho => ⟨jumpSlot_odd hs absolute ho true, jumpSlot_odd hs absolute ho false, fun hfits => ?_⟩,
      fun ho => ⟨jumpSlot_odd hs relative ho true, jumpSlot_odd hs relative ho false, fun hfits => ?_⟩, fun hfull => ?_⟩
    · exact ⟨callSlot_odd hs absolute ho hfits true, callSlot_odd hs absolute ho hfits false⟩
    · exact ⟨callSlot_odd hs relative ho hfits true, callSlot_odd hs relative ho hfits false⟩
    · exact ⟨callSlot_full hs absolute hfull true, callSlot_full hs absolute hfull false,
        callSlot_full hs relative hfull true, callSlot_full hs relative hfull false⟩
  case branches =>
    have short (dnull : Bool) := callSlot_full (target := fun t => .next (shortTarget t i9)) hs rfl hfull dnull
    have long (dnull : Bool) := callSlot_full (target := fun t => .next (longTarget t i9)) hs rfl hfull dnull
    exact ⟨short true, short false, long true, long false⟩

end Sys2Proof.Machine
end

section
/-! One data access (20_memory.md R62 to R74, 60_exceptions.md R325): a read that answers is what `readsOperand` says, a write
what `writesOperand` says, and each answers where the operand is accessible. -/

namespace Sys2Proof.Machine

/-! ## Reads -/

theorem memRead_of_accessible {s : State} {n : Size} {a : Word} (h : accessible s n a) : ∃ p, memRead n a s = .next p := by
  obtain ⟨ha, ht⟩ := h
  obtain hm | hd := inMemory_or_meetsDevice ht
  · exact ⟨_, memRead_eq_next.mpr ⟨ha, .inl ⟨hm, rfl⟩⟩⟩
  · exact ⟨_, memRead_eq_next.mpr ⟨ha, .inr ⟨hd, rfl⟩⟩⟩

theorem readsOperand_of_memRead {s : State} {n : Size} {a : Word} {p : Word × State} (h : memRead n a s = .next p) :
    readsOperand s p.2 n a p.1 := by
  obtain ⟨ha, ⟨hm, rfl⟩ | ⟨hd, rfl⟩⟩ := memRead_eq_next.mp h
  · exact .inl ⟨hm, rfl, rfl, rfl, rfl⟩
  · exact .inr ⟨hd, (answersRead_iff ha).mpr rfl, rfl, rfl, rfl⟩

/-- An operand read has no bits above its own (R66). -/
theorem readsOperand_trunc {s t : State} {n : Size} {a v : Word} (h : readsOperand s t n a v) : n.trunc v = v := by
  obtain ⟨-, rfl, -⟩ | ⟨-, answers, -⟩ := h
  · exact trunc_operandOf _ _
  · exact answers.1

/-- An operand all in memory is read from there. -/
theorem readsOperand_inMemory {s t : State} {n : Size} {a v : Word} (h : readsOperand s t n a v) (hm : inMemory s n a) :
    v = s.mem.readOperand n a := by
  obtain ⟨-, hv, -⟩ | ⟨⟨-, i, hi, device⟩, -⟩ := h
  · exact hv
  · simp [hm i hi] at device

theorem accessible_of_inMemory {s : State} {n : Size} {a : Word} (ha : aligned n a = true) (hm : inMemory s n a) :
    accessible s n a :=
  ⟨ha, fun ⟨i, hi, hn⟩ => by simp [hm i hi] at hn⟩

/-! ## Writes -/

theorem memWrite_of_accessible {s : State} {n : Size} {a : Word} (h : accessible s n a) (v : Word) :
    ∃ u, memWrite n a v s = .next u := by
  obtain ⟨ha, ht⟩ := h
  obtain hm | hd := inMemory_or_meetsDevice ht
  · exact ⟨_, memWrite_eq_next.mpr ⟨ha, .inl ⟨hm, rfl⟩⟩⟩
  · exact ⟨_, memWrite_eq_next.mpr ⟨ha, .inr ⟨hd, rfl⟩⟩⟩

/-- The addresses of an aligned operand's cells are those of its bytes. -/
theorem exists_operandCell_iff {n : Size} {a : Word} (h : aligned n a = true) (v : Word) {b : Nat} :
    (∃ c ∈ operandCells n a v, c.1 = b) ↔ ¬ outsideOperand n a b := by
  simp only [mem_operandCells h, outsideOperand]
  constructor
  · rintro ⟨c, ⟨i, hi, rfl⟩, rfl⟩
    omega
  · intro inside
    exact ⟨_, ⟨b - a.toNat, by omega, rfl⟩, by simp only; omega⟩

theorem writesOperand_of_memWrite {s u : State} {n : Size} {a v : Word} (h : memWrite n a v s = .next u) :
    writesOperand s u n a v := by
  have outside := memWrite_memExcept h
  obtain ⟨ha, ⟨hm, rfl⟩ | ⟨hd, rfl⟩⟩ := memWrite_eq_next.mp h
  · refine ⟨fun b => ?_, rfl, rfl, outside, .inl ⟨hm, Memory.readOperand_writeCells _ _ _ _, rfl⟩⟩
    rw [← exists_operandCell_iff ha v]
    exact mem_markCells _ _ _
  · refine ⟨fun b => ?_, rfl, rfl, outside,
      .inr ⟨hd, fun i hi => Memory.read_writeCells_memoryCells _ _ v ha hi, rfl⟩⟩
    have both : (∃ c ∈ memoryCells s.plat.map (operandCells n a v), c.1 = b) → ∃ c ∈ operandCells n a v, c.1 = b :=
      fun ⟨c, hc, e⟩ => ⟨c, (mem_memoryCells.mp hc).1, e⟩
    rw [← exists_operandCell_iff ha v]
    change b ∈ markCells (markCells s.written _) _ ↔ _
    rw [mem_markCells, mem_markCells, or_assoc, or_iff_right_of_imp both]

end Sys2Proof.Machine
end

section
/-! The memory group (42_memory_group.md R180 to R202): loads, stores, the return-stack forms, LEA and LDI, each as one access
in a plain slot, and a load after the store that wrote its operand. -/

namespace Sys2Proof.Machine

/-! ## Loads -/

/-- A load of an accessible operand completes with one read and writes its register. `ext'` is what the extension amounts to on
an operand of the size. -/
theorem loadsReg_of_plainSlot {i : Instr} {s : State} {n : Size} {a : Word} {ra : RegNo} {ext ext' : Word → Word}
    {ea : State → Word}
    (hi : exec i s = plainSlot s fun t => andThen (memRead n (ea t) t) fun p => writeReg p.2 ra (ext p.1))
    (ha : ea s.enter = a) (hra : ra ≠ 15#4) (h : accessible s n a) (hext : ∀ v, n.trunc v = v → ext v = ext' v) :
    loadsReg i s n a ext' ra := by
  obtain ⟨p, hp⟩ := memRead_of_accessible (s := s.enter) h
  have reads := readsOperand_of_memRead hp
  have completes := hi.trans ((loadSlot_eq_next ha).mpr ⟨hra, p, hp, rfl⟩)
  obtain ⟨_, _, _, -, hu⟩ := memRead_frame hp
  refine ⟨_, p.1, completes, reads, ?written, fun r hr => ?others, ?_⟩
  case written => rw [State.setPc_reg?, State.reg?_setReg_same _ _ _ hra, hext _ (readsOperand_trunc reads)]
  case others =>
    rw [State.setPc_reg?, State.reg?_setReg_ne _ _ hr, hu]
    rfl
  · rw [hu]
    exact ⟨⟨fun _ => rfl, rfl⟩, rfl, ⟨rfl, rfl, rfl⟩, rfl, rfl⟩

/-- Settles O25: each meaning is one read in a plain slot, as RA is not r15; an operand has no bits that zero extension could
clear. -/
theorem loadsIntoRegister : Obligations.LoadsIntoRegister := by
  intro s ra rb mode base off hra
  refine ⟨fun h => ?quad, fun h => ?stack, fun h => ?wyde, fun h => ?byte⟩
  case quad => exact loadsReg_of_plainSlot (ext := fun v => v) (if_neg hra) (effAddr_enter s mode rb) hra h fun _ _ => rfl
  case stack =>
    exact loadsReg_of_plainSlot (ext := fun v => v) (if_neg hra) (stackAddr_enter s base off) hra h fun _ _ => rfl
  case wyde =>
    exact ⟨loadsReg_of_plainSlot (ext := zextWyde) (if_neg hra) (effAddr_enter s mode rb) hra h fun _ hv => hv,
      loadsReg_of_plainSlot (ext := sextWyde) (if_neg hra) (effAddr_enter s mode rb) hra h fun _ _ => rfl⟩
  case byte =>
    exact ⟨loadsReg_of_plainSlot (ext := zextByte) (if_neg hra) (effAddr_enter s mode rb) hra h fun _ hv => hv,
      loadsReg_of_plainSlot (ext := sextByte) (if_neg hra) (effAddr_enter s mode rb) hra h fun _ _ => rfl⟩

/-- Clearing the two low bits rounds down to a multiple of four. -/
theorem quadBase_toNat (a : Word) : (a &&& 0xFFFFFFFC#32).toNat = a.toNat / 4 * 4 := by
  have mask : ∀ i < 32, (0xFFFFFFFC#32).getLsbD i = !decide (i < 2) := by decide
  have shifts : a &&& 0xFFFFFFFC#32 = (a >>> 2) <<< 2 := by
    refine BitVec.eq_of_getLsbD_eq fun i hi => ?_
    rw [BitVec.getLsbD_and, mask i hi, BitVec.getLsbD_shiftLeft, BitVec.getLsbD_ushiftRight]
    by_cases h : i < 2
    · simp [h]
    · simp [h, hi, Nat.add_sub_cancel' (Nat.not_lt.mp h)]
  have := a.isLt
  rw [shifts, BitVec.toNat_shiftLeft, BitVec.toNat_ushiftRight, Nat.shiftRight_eq_div_pow, Nat.shiftLeft_eq]
  omega

/-- Settles O35: LDI's base and offset are multiples of four; the meaning is one read in a plain slot, into r14. -/
theorem ldiReadsQuadIntoImm : Obligations.LdiReadsQuadIntoImm := by
  intro s ea12
  have address : ldiAddr s ea12 = BitVec.ofNat 32 (s.pc.toNat / 4 * 4 + 4 * ea12.toNat) := by
    refine BitVec.eq_of_toNat_eq ?_
    rw [ldiAddr, BitVec.toNat_add, quadBase_toNat, BitVec.toNat_mul, BitVec.toNat_setWidth, BitVec.toNat_ofNat]
    simp
  have quad : aligned .quad (ldiAddr s ea12) = true := by
    rw [address]
    simp [aligned, Size.bytes]
  exact ⟨address, quad, fun ht =>
    loadsReg_of_plainSlot (ext := fun v => v) (ea := fun t => ldiAddr t ea12) rfl (ldiAddr_enter s ea12) (by decide)
      ⟨quad, ht⟩ fun _ _ => rfl⟩

/-! ## Stores -/

/-- What a write in a slot leaves, from a state `u` that differs from the slot's in its return stack at most. -/
theorem storesOperand_of_memWrite {i : Instr} {s u : State} {n : Size} {a v : Word} {l : List Word}
    (h : memWrite n a v (s.enter.setRs l) = .next u) (hi : exec i s = .next (u.setPc s.nextPc)) :
    storesOperand i s n a v l := by
  have writes := writesOperand_of_memWrite h
  obtain ⟨_, _, _, -, rfl⟩ := memWrite_frame h
  exact ⟨_, hi, writes, fun _ => rfl, rfl, ⟨rfl, rfl, rfl⟩, rfl, rfl⟩

/-- A store of a register to an accessible operand completes with one write. -/
theorem storesOperand_of_plainSlot {i : Instr} {s : State} {n : Size} {a x : Word} {ra : RegNo} {ea : State → Word}
    (hi : exec i s = plainSlot s fun t => andThen (readReg t ra) fun x => memWrite n (ea t) x t) (ha : ea s.enter = a)
    (hx : s.reg? ra = some x) (h : accessible s n a) : storesOperand i s n a x s.rs := by
  obtain ⟨u, hu⟩ := memWrite_of_accessible (s := s.enter) h x
  exact storesOperand_of_memWrite hu (hi.trans (storeSlot_eq_next.mpr ⟨x, hx, u, ha ▸ hu, rfl⟩))

/-- Settles O26: each meaning is one write in a plain slot, as RA, which holds a word, is not r15. -/
theorem storesOfRegister : Obligations.StoresOfRegister := by
  intro s ra rb mode base off x hx
  have hra := State.ne_fifteen_of_reg? hx
  exact ⟨storesOperand_of_plainSlot (if_neg hra) (effAddr_enter s mode rb) hx,
    storesOperand_of_plainSlot (if_neg hra) (stackAddr_enter s base off) hx,
    storesOperand_of_plainSlot (if_neg hra) (effAddr_enter s mode rb) hx,
    storesOperand_of_plainSlot (if_neg hra) (effAddr_enter s mode rb) hx⟩

/-! ## The return stack -/

/-- Settles O29: r15's forms are one meaning, a read in a plain slot and a push. -/
theorem loadPushesReturnStack : Obligations.LoadPushesReturnStack := by
  intro s q mode rb base off
  refine ⟨rfl, rfl, fun hmanual h hfits => ?_⟩
  obtain ⟨p, hp⟩ := memRead_of_accessible (s := s.enter) h
  have reads := readsOperand_of_memRead hp
  obtain ⟨_, _, _, -, hu⟩ := memRead_frame hp
  have completes : exec (.ldqRs q) s = .next ((p.2.setRs (p.1 :: p.2.rs)).setPc s.nextPc) :=
    (loadPush_eq_next (ea := fun t => quadAddr t q)).mpr
      ⟨hmanual, p, by rw [quadAddr_enter, hp], by rw [hu]; exact hfits, rfl⟩
  refine ⟨_, p.1, completes, reads, ?_⟩
  rw [hu]
  exact ⟨rfl, fun _ => rfl, ⟨fun _ => rfl, rfl⟩, ⟨rfl, rfl, rfl⟩, rfl, rfl⟩

/-- Settles O30: r15's forms are one meaning, a pop and a write in a plain slot. -/
theorem storePopsReturnStack : Obligations.StorePopsReturnStack := by
  intro s q mode rb base off v rest
  refine ⟨rfl, rfl, fun hmanual h hrs => ?_⟩
  obtain ⟨u, hu⟩ := memWrite_of_accessible (s := s.enter.setRs rest) h v
  exact storesOperand_of_memWrite hu <|
    (storePop_eq_next (ea := fun t => quadAddr t q)).mpr ⟨hmanual, v, rest, hrs, u, by rw [quadAddr_enter, hu], rfl⟩

/-- Settles O31: RS_MANUAL_ACCESS is asked first; ST pops before its access, LD pushes after it. -/
theorem returnStackStops : Obligations.ReturnStackStops := by
  intro s q
  refine ⟨fun hno => ?refused, fun hmanual hempty => ?underflow, fun hmanual h hfull => ?overflow⟩
  case refused =>
    have refuses (r : Res State) : withManualAccess s r = .refused .rsManualAccess := if_neg (ne_true_of_eq_false hno)
    exact ⟨refuses _, refuses _⟩
  case underflow =>
    refine (if_pos hmanual).trans ?_
    rw [plainSlot, rsPop_empty (s := s.enter) hempty]
    rfl
  case overflow =>
    obtain ⟨p, hp⟩ := memRead_of_accessible (s := s.enter) h
    obtain ⟨_, _, _, -, hu⟩ := memRead_frame hp
    refine (if_pos hmanual).trans ?_
    rw [plainSlot]
    beta_reduce
    rw [quadAddr_enter, hp, andThen_next, rsPush_full (by rw [hu]; exact hfull), andThen_fault]

/-! ## A load after a store -/

/-- After an operand all in memory is written it is still there, and holds what was written. -/
theorem stored_inMemory {s u : State} {n : Size} {a v : Word} (h : memWrite n a v s = .next u) (hm : inMemory s n a) :
    accessible u n a ∧ inMemory u n a ∧ u.mem.readOperand n a = n.trunc v := by
  obtain ⟨ha, -⟩ := memWrite_eq_next.mp h
  obtain ⟨-, -, -, -, ⟨-, holds, -⟩ | ⟨⟨-, i, hi, device⟩, -⟩⟩ := writesOperand_of_memWrite h
  · obtain ⟨_, _, _, -, rfl⟩ := memWrite_frame h
    exact ⟨accessible_of_inMemory ha hm, hm, holds⟩
  · simp [hm i hi] at device

/-- A load right after a store to its operand, all in memory, finds what was stored. -/
theorem loads_stored {i : Instr} {s u : State} {n : Size} {a v pc : Word} {ext : Word → Word} {rd : RegNo}
    (hu : memWrite n a v s = .next u) (hm : inMemory s n a)
    (load : accessible u n a → loadsReg i (u.setPc pc) n a ext rd) :
    ∃ w, exec i (u.setPc pc) = .next w ∧ w.reg? rd = some (ext (n.trunc v)) := by
  obtain ⟨there, inMem, holds⟩ := stored_inMemory hu hm
  obtain ⟨w, y, hw, reads, hy, -⟩ := load there
  have found : y = u.mem.readOperand n a := readsOperand_inMemory reads inMem
  exact ⟨w, hw, by rw [hy, found, holds]⟩

/-- Settles O32: the store leaves its operand in memory, where the load of the same size finds it. -/
theorem storeThenLoad : Obligations.StoreThenLoad := by
  intro s t ra rb rd rb' mode mode' x hx hrd hea
  have hra := State.ne_fifteen_of_reg? hx
  have stored {y : Word} (hy : s.reg? ra = some y) : y = x := Option.some.inj (hy.symm.trans hx)
  obtain ⟨quad, -, wyde, byte⟩ := loadsIntoRegister t rd rb' mode' .fp 0#4 hrd
  rw [hea] at quad wyde byte
  refine ⟨fun hm h => ?quad, fun hm h => ?wyde, fun hm h => ?byte⟩
  case quad =>
    obtain ⟨y, hy, u, hu, rfl⟩ := (storeQuad_eq_next (ea := fun t => effAddr t mode rb) hra).mp h
    rw [effAddr_enter, stored hy] at hu
    exact loads_stored hu hm quad
  case wyde =>
    obtain ⟨-, y, hy, u, hu, rfl⟩ := storePart_eq_next.mp h
    rw [stored hy] at hu
    refine ⟨loads_stored hu hm fun there => (wyde there).1, ?_⟩
    obtain ⟨w, hw, hv⟩ := loads_stored hu hm fun there => (wyde there).2
    exact ⟨w, hw, by simpa [Size.trunc] using hv⟩
  case byte =>
    obtain ⟨-, y, hy, u, hu, rfl⟩ := storePart_eq_next.mp h
    rw [stored hy] at hu
    refine ⟨loads_stored hu hm fun there => (byte there).1, ?_⟩
    obtain ⟨w, hw, hv⟩ := loads_stored hu hm fun there => (byte there).2
    exact ⟨w, hw, by simpa [Size.trunc] using hv⟩

/-- Settles O33: the quad that ST `rs` popped is in memory, where LD `rs` finds it and pushes it back. -/
theorem spillAndRestore : Obligations.SpillAndRestore := by
  intro s t q q' h hea hm hfits
  obtain ⟨hmanual, v, rest, hrs, u, hu, rfl⟩ := (storePop_eq_next (ea := fun t => quadAddr t q)).mp h
  rw [quadAddr_enter] at hu
  obtain ⟨there, inMem, holds⟩ := stored_inMemory hu hm
  obtain ⟨_, _, _, -, hframe⟩ := memWrite_frame hu
  have place : u.rs.length < u.plat.rsDepth := by
    rw [hrs, List.length_cons] at hfits
    rw [hframe]
    exact hfits
  obtain ⟨-, -, restores⟩ := loadPushesReturnStack (u.setPc s.nextPc) q' .plain 0#4 .fp 0#4
  obtain ⟨w, y, hw, reads, pushed, regs, -⟩ :=
    restores (by rw [hframe]; exact hmanual) (by rw [hea]; exact there) place
  rw [hea] at reads
  have found : y = v := (readsOperand_inMemory reads inMem).trans holds
  have popped : u.rs = rest := by rw [hframe]; rfl
  refine ⟨w, hw, by rw [pushed, found, hrs, ← popped]; rfl, fun r => (regs r).trans ?_⟩
  rw [hframe]
  rfl

/-! ## LEA and addresses -/

/-- Settles O24: r15 as base is the pc, fp and sp are r12 and r13, imm is r14. -/
theorem effectiveAddresses : Obligations.EffectiveAddresses := by
  intro s rb off base x14
  obtain ⟨fp, sp, imm⟩ := s.reg?_named
  refine ⟨fun hbase himm => ?normal, fun hfp => ?fp, fun hsp => ?sp⟩
  case normal =>
    have hb : readBase s rb = base := by
      by_cases h : rb = 15#4
      · rw [if_pos h] at hbase
        rw [h, readBase_fifteen, hbase]
      · rw [if_neg h] at hbase
        exact readBase_of_reg? hbase
    obtain rfl : s.imm = x14 := Option.some.inj (imm.symm.trans himm)
    exact ⟨hb, congrArg (· + s.imm) hb⟩
  case fp =>
    obtain rfl : s.fp = base := Option.some.inj (fp.symm.trans hfp)
    rfl
  case sp =>
    obtain rfl : s.sp = base := Option.some.inj (sp.symm.trans hsp)
    rfl

/-- Settles O34: the meaning is one `writeReg` of the address, whatever the SIZE field is. -/
theorem leaWritesAddress : Obligations.LeaWritesAddress := by
  intro s ra rb mode size hra
  have completes : exec (.lea ra mode size rb) s = .next (s.afterWrite ra (effAddr s.enter mode rb)) :=
    plainSlot_writeReg hra s fun t => effAddr t mode rb
  rw [effAddr_enter] at completes
  exact writesReg_of_afterWrite hra completes

/-! ## Accesses that stop -/

theorem plainSlot_fault {s : State} {effect : State → Res State} {e : Fault} (h : effect s.enter = .fault e) :
    plainSlot s effect = .fault e := by
  rw [plainSlot, h, andThen_fault]

/-- Where nothing refuses the load before its read, it stops as the read does. -/
theorem Shape.run_of_memRead_fault {sh : Shape} {s : State} {n : Size} {a : Word} {e : Fault}
    (hl : sh.loads s = some (n, a)) (hr15 : sh.namesR15 = false) (hpush : sh.pushes = true → s.plat.rsManualAccess = true)
    (hf : memRead n a s.enter = .fault e) : sh.run s = .fault e := by
  cases sh with
  | loadQuad ra q =>
    obtain ⟨rfl, rfl⟩ : Size.quad = n ∧ q.addr s = a := by simpa [Shape.loads] using hl
    rw [← QuadPlace.addr_enter] at hf
    by_cases hra : ra = 15#4
    · subst hra
      refine (if_pos (hpush rfl)).trans (plainSlot_fault ?_)
      rw [hf, andThen_fault]
    · refine (if_neg hra).trans (plainSlot_fault ?_)
      rw [hf, andThen_fault]
  | loadPart n' ra mode rb ext =>
    obtain ⟨rfl, rfl⟩ : n' = n ∧ effAddr s mode rb = a := by simpa [Shape.loads] using hl
    have hra : ra ≠ 15#4 := by simpa [Shape.namesR15] using hr15
    refine (if_neg hra).trans (plainSlot_fault ?_)
    rw [effAddr_enter, hf, andThen_fault]
  | _ => cases hl

/-- Where nothing stops the store before its write, it stops as the write does, whatever is stored. -/
theorem Shape.run_of_memWrite_fault {sh : Shape} {s : State} {n : Size} {a : Word} {e : Fault}
    (hst : sh.stores s = some (n, a)) (hr15 : sh.namesR15 = false)
    (hpop : sh.pops = true → s.plat.rsManualAccess = true ∧ s.rs ≠ [])
    (hf : ∀ v u, u.plat = s.plat → memWrite n a v u = .fault e) : sh.run s = .fault e := by
  have registers {n : Size} {a : Word} {ra : RegNo} {ea : State → Word} (hra : ra ≠ 15#4) (ha : ea s.enter = a)
      (hf : ∀ v u, u.plat = s.plat → memWrite n a v u = .fault e) :
      (plainSlot s fun t => andThen (readReg t ra) fun x => memWrite n (ea t) x t) = .fault e := by
    obtain ⟨x, hx⟩ := s.enter.exists_reg? hra
    refine plainSlot_fault ?_
    rw [readReg_eq_next.mpr hx, andThen_next, ha]
    exact hf _ _ rfl
  cases sh with
  | storeQuad ra q =>
    obtain ⟨rfl, rfl⟩ : Size.quad = n ∧ quadAddr s q = a := by simpa [Shape.stores] using hst
    by_cases hra : ra = 15#4
    · subst hra
      obtain ⟨hmanual, hrs⟩ := hpop rfl
      obtain ⟨v, rest, hrs⟩ := List.exists_cons_of_ne_nil hrs
      have pops : rsPop s.enter = .next (v, s.enter.setRs rest) := rsPop_eq_next.mpr ⟨by simp [hrs], by simp [hrs]⟩
      refine (if_pos hmanual).trans (plainSlot_fault ?_)
      rw [pops, andThen_next]
      beta_reduce
      rw [quadAddr_enter]
      exact hf _ _ rfl
    · exact (if_neg hra).trans (registers hra (quadAddr_enter s q) hf)
  | storePart n' ra mode rb =>
    obtain ⟨rfl, rfl⟩ : n' = n ∧ effAddr s mode rb = a := by simpa [Shape.stores] using hst
    have hra : ra ≠ 15#4 := by simpa [Shape.namesR15] using hr15
    exact (if_neg hra).trans (registers hra (effAddr_enter s mode rb) hf)
  | _ => cases hst

/-- Settles O28: the access stops, and nothing before it does. -/
theorem accessStops : Obligations.AccessStops := by
  intro s i n a hr15
  rw [exec_eq_run, loadOf_eq, storeOf_eq, pushesStack_eq, popsStack_eq]
  rw [namesR15_eq] at hr15
  refine ⟨fun hl hpush => ?load, fun hst hpop => ?store⟩
  case load =>
    have stops {e : Fault} := Shape.run_of_memRead_fault (e := e) hl hr15 hpush
    exact ⟨fun ha => stops (memRead_misaligned ha _), fun ha ht => stops (memRead_unmapped ha ht)⟩
  case store =>
    have stops {e : Fault} := Shape.run_of_memWrite_fault (e := e) hst hr15 hpop
    refine ⟨fun ha => stops fun v u _ => memWrite_misaligned ha v u, fun ha ht => stops fun v u hu => ?_⟩
    exact memWrite_unmapped ha (by rwa [touchesNothing, hu]) v

end Sys2Proof.Machine
end

section
/-! The reset state (10_state.md R44, 70_reset_and_hazards.md R340, R341), the printed words (95_test_vectors.md), DI and EI
(43_coprocessor.md R213, R214) and the words without an effect (30_encoding.md R110). -/

namespace Sys2Proof.Machine

/-- Settles O3: by computation, one word after the other. -/
theorem listedWordsDecode : Obligations.ListedWordsDecode := by
  unfold Obligations.ListedWordsDecode
  decide

theorem reset_reg? {r : RegNo} (h : r ≠ 15#4) : State.reset.reg? r = some 0x00000000#32 := by
  have lt : r.toNat < 15 := by bv_omega
  exact Vector.getElem?_replicate.trans (if_pos lt)

/-- Settles O4: one region holds every 32-bit address; the rest is written in `State.reset`. -/
theorem resetState : Obligations.ResetState := by
  refine ⟨rfl, rfl, rfl, rfl, rfl, rfl, fun r => reset_reg?, rfl, rfl, fun a => ?_, rfl, rfl, rfl, rfl, rfl, rfl⟩
  have lt := a.isLt
  have holds : Region.holds { base := 0, bytes := 2 ^ 32, kind := .memory } a.toNat = true := by
    simp [Region.holds]
    omega
  exact if_pos holds

/-- Settles O5: at reset nothing is pending and nothing is written. -/
theorem invAtReset : Obligations.InvAtReset where
  memory := reset_mem_wf
  written := by simp [State.reset, writtenWf]
  pcEven := rfl
  targetEven := by simp [State.reset]
  delayAlone := by simp [State.reset]
  skipAlone := by simp [State.reset]
  skipHasKind := by simp [State.reset]
  depth := Nat.le_refl 16
  stackFits := Nat.zero_le _

/-- Settles O37: the effect is one update of IE, in every state. -/
theorem diEiWriteInterruptEnable : Obligations.DiEiWriteInterruptEnable := by
  have writes (s : State) (b : Bool) :
      ∃ t, (plainSlot s fun t => .next (t.setIe b)) = .next t ∧ t.ie = b ∧ regsSame s t ∧ memSame s t ∧ stackSame s t ∧
        t.sr = s.sr ∧ t.plat = s.plat ∧ flagsSame s t ∧ devicesSame s t :=
    ⟨_, rfl, rfl, fun _ => rfl, ⟨fun _ => rfl, rfl⟩, rfl, rfl, rfl, ⟨rfl, rfl⟩, rfl, rfl, rfl⟩
  exact ⟨rfl, rfl, fun s => ⟨writes s false, writes s true⟩⟩

/-- Settles O51: each of these meanings is its stop. -/
theorem stopsOnEveryPath : Obligations.StopsOnEveryPath := by
  intro s
  exact ⟨fun _ _ _ _ => rfl, fun _ _ _ _ => rfl, fun _ _ _ => rfl, fun _ => rfl, fun _ _ => ⟨rfl, rfl⟩, rfl, rfl,
    fun _ => ⟨rfl, rfl⟩, fun _ _ => rfl, fun _ _ => rfl, fun _ _ _ => rfl⟩

end Sys2Proof.Machine
end
